-- ==== Sys2Proof/Word.lean ====
section
/-! DEFINITION. The word types of the IRB block (spec 30_encoding.md R80, R81) and the pin level. -/

namespace Sys2Proof

/-- One word of the operation ROM, W_OP = 24 bits (R80). It is held as one value: no byte serialisation exists (R64). -/
abbrev OpWord := BitVec 24

/-- The operation code, `word[23:16]` (R80). -/
abbrev OpCode := BitVec 8

/-- The operand, `word[15:0]`, unsigned (R81). -/
abbrev Operand := BitVec 16

/-- A one-bit value; for a pin latch `true` is high, the inactive level of both pins (R13). -/
abbrev Bit := Bool

/-- The inactive level of both pins is high (R13). -/
abbrev inactive : Bit := true

/-- The active level of both pins is low: LED lit, emitter emitting (R13). -/
abbrev active : Bit := false

end Sys2Proof
end

