-- ==== Sys2Proof/Syntax.lean ====
section
/-! DEFINITION. The eleven operations (spec 00_scope.md R17, 30_encoding.md R82), one constructor per row of the opcode table. -/

namespace Sys2Proof

/-- The IRB operation set. `imm` is the 16-bit operand of the word (R81). -/
inductive Instr where
  /-- PINCFG, 0x01: make both pins outputs (43_beacon.md R150). -/
  | pincfg
  /-- PINIDLE, 0x02: put both pins at their inactive level (43_beacon.md R151). -/
  | pinidle
  /-- LDPER, 0x03: store the period value (41_carrier.md R111). -/
  | ldper
  /-- CGSTOP, 0x04: stop the carrier (41_carrier.md R113). -/
  | cgstop
  /-- CGEN, 0x05: enable the carrier (41_carrier.md R112). -/
  | cgen
  /-- IROFF, 0x06: force the IR pin to its inactive level (41_carrier.md R114). -/
  | iroff
  /-- DLY, 0x07: wait `imm` nominal microseconds (40_busywait.md R100). -/
  | dly (imm : Operand)
  /-- INCB, 0x08: count one beacon cycle (43_beacon.md R152). -/
  | incb
  /-- LEDA, 0x09: light the visible LED when the counter equals `imm` (43_beacon.md R153). -/
  | leda (imm : Operand)
  /-- LEDD, 0x0A: put the LED out and restart the counter when it equals `imm` (43_beacon.md R154). -/
  | ledd (imm : Operand)
  /-- LOOP, 0x0B: go to word `imm[4:0]`; `imm[15:5]` must be 0 (43_beacon.md R155, 30_encoding.md R81). -/
  | loop (imm : Operand)
  deriving DecidableEq, Repr

end Sys2Proof
end

