-- ==== Sys2Proof/WellFormed.lean ====
section
/-! DEFINITION. Which instructions have an encoding (spec 30_encoding.md R81, R82). -/

namespace Sys2Proof

/-- R81: "For LOOP only `imm[4:0]` is the target word index and `imm[15:5]` must be 0." Every other operand of the table is
any 16-bit number: DLY 0 is a legal encoding, refused when it executes (R85). -/
abbrev WellFormed : Instr → Prop
  | .loop imm => imm.extractLsb' 5 11 = 0
  | .pincfg | .pinidle | .ldper | .cgstop | .cgen | .iroff | .dly _ | .incb | .leda _ | .ledd _ => True

end Sys2Proof
end

