-- ==== Sys2Proof/Decode.lean ====
section
/-! DEFINITION. Decoding and encoding of operation words (spec 30_encoding.md R80 to R84), and the opcode table of R82. -/

namespace Sys2Proof

/-- The field `op = word[23:16]` (R80). -/
def opField (w : OpWord) : OpCode := w.extractLsb' 16 8

/-- The field `imm = word[15:0]`, taken as it stands: never sign-extended, scaled or shifted (R81). -/
def immField (w : OpWord) : Operand := w.extractLsb' 0 16

/-- The word with the given fields, `op ++ imm` (R80, R11). -/
def mkWord (op : OpCode) (imm : Operand) : OpWord := op ++ imm

/-- `imm[15:5]`, which must be 0 in a LOOP word (R81). -/
def loopReserved (imm : Operand) : BitVec 11 := imm.extractLsb' 5 11

/-- Why a word is `illegal`: the four kinds of illegal word that R84 lists. -/
inductive IllegalWord where
  /-- `op = 0x00` or `op` in 0x0C to 0xFF. Raised by `decode`; safe: the machine stops. -/
  | undefinedOp
  /-- An operation without operand with `imm != 0`. Raised by `decode`; safe: the machine stops. -/
  | operandNotZero
  /-- LOOP with `imm[15:5] != 0`. Raised by `decode`; safe: the machine stops. -/
  | loopTargetTooWide
  deriving DecidableEq, Repr

/-- The seven operations that take no operand, by operation code (R82). -/
def plainOp (op : OpCode) : Option Instr :=
  if op = 0x01 then some .pincfg
  else if op = 0x02 then some .pinidle
  else if op = 0x03 then some .ldper
  else if op = 0x04 then some .cgstop
  else if op = 0x05 then some .cgen
  else if op = 0x06 then some .iroff
  else if op = 0x08 then some .incb
  else none

/-- Decoding is total: any word is one operation with its operand or illegal, in the order of R83. -/
def decode (w : OpWord) : Except IllegalWord Instr :=
  if opField w = 0x07 then .ok (.dly (immField w))
  else if opField w = 0x09 then .ok (.leda (immField w))
  else if opField w = 0x0A then .ok (.ledd (immField w))
  else if opField w = 0x0B then
    if loopReserved (immField w) = 0 then .ok (.loop (immField w)) else .error .loopTargetTooWide
  else
    match plainOp (opField w) with
    | none => .error .undefinedOp
    | some i => if immField w = 0 then .ok i else .error .operandNotZero

/-- The operation code of an instruction (the column "op" of R82). -/
def opcode : Instr → OpCode
  | .pincfg => 0x01
  | .pinidle => 0x02
  | .ldper => 0x03
  | .cgstop => 0x04
  | .cgen => 0x05
  | .iroff => 0x06
  | .dly _ => 0x07
  | .incb => 0x08
  | .leda _ => 0x09
  | .ledd _ => 0x0A
  | .loop _ => 0x0B

/-- The operand field of an instruction; 0 for the seven without operand (R81). -/
def operandOf : Instr → Operand
  | .dly imm => imm
  | .leda imm => imm
  | .ledd imm => imm
  | .loop imm => imm
  | .pincfg | .pinidle | .ldper | .cgstop | .cgen | .iroff | .incb => 0

/-- The one word of an instruction (R80, R82). -/
def encode (i : Instr) : OpWord := mkWord (opcode i) (operandOf i)

/-- One row of the table of R82. -/
structure OpRow where
  code : OpCode
  matchBits : OpWord
  mask : OpWord
  deriving DecidableEq, Repr

/-- The table of R82: a word `w` is the operation of a row exactly when `w and mask = match`. -/
def opTable : List OpRow :=
  [⟨0x01, 0x010000, 0xFFFFFF⟩,   -- PINCFG
   ⟨0x02, 0x020000, 0xFFFFFF⟩,   -- PINIDLE
   ⟨0x03, 0x030000, 0xFFFFFF⟩,   -- LDPER
   ⟨0x04, 0x040000, 0xFFFFFF⟩,   -- CGSTOP
   ⟨0x05, 0x050000, 0xFFFFFF⟩,   -- CGEN
   ⟨0x06, 0x060000, 0xFFFFFF⟩,   -- IROFF
   ⟨0x07, 0x070000, 0xFF0000⟩,   -- DLY
   ⟨0x08, 0x080000, 0xFFFFFF⟩,   -- INCB
   ⟨0x09, 0x090000, 0xFF0000⟩,   -- LEDA
   ⟨0x0A, 0x0A0000, 0xFF0000⟩,   -- LEDD
   ⟨0x0B, 0x0B0000, 0xFFFFE0⟩]   -- LOOP

/-- The word of an instruction given as a number: the low `nbits` bits of `w` (every bit above them 0), as one 24-bit value. -/
def tableWord (nbits w : Nat) : OpWord := BitVec.ofNat 24 (w % 2 ^ nbits)

/-- The instruction the decoder reads from an instruction whose bits are `w`, bit 0 the least significant (R11, R82). -/
def decodeTableWord (nbits w : Nat) : Option Instr :=
  match decode (tableWord nbits w) with
  | .ok i => some i
  | .error _ => none

end Sys2Proof
end

