-- ==== Sys2Proof/Config.lean ====
section
/-! DEFINITION. The configuration record `Cfg` of spec 00_scope.md R8, the reference ROM (43_beacon.md R170) and the reference
configuration `Cfg0` (R10). What is computed from a configuration (PERVAL, R110; legality, R9) stands in Machine/Ops.lean. -/

namespace Sys2Proof

/-- An (on, off) pair in nominal microseconds (R8 PATTERN; the source's TimingParameter). -/
structure OnOff where
  on : Nat
  off : Nat
  deriving DecidableEq, Repr, Inhabited

/-- The three pulse pairs of the beacon (R8 PATTERN). -/
structure Pattern where
  first : OnOff
  second : OnOff
  third : OnOff
  deriving DecidableEq, Repr, Inhabited

/-- The parameters of R8, "fixed at build time and never change at run time". W_OP = 24 and W_TIME = 16 are fixed by the word
types; PERVAL is computed (R110). Any value of a field can be written down; R9 says which configurations are legal. -/
structure Cfg where
  /-- F_CLK: clock cycles per second. -/
  fClk : Nat
  /-- F_TARGET: target carrier frequency in hertz. -/
  fTarget : Nat
  /-- K: clock cycles per delay iteration, the source's ClockCalibration (R102). -/
  k : Nat
  /-- OVH: clock cycles of every operation other than DLY (R225). -/
  ovh : Nat
  /-- N_BLINK: the counter value at which the blink counter restarts. -/
  nBlink : Nat
  /-- LED_ON_AT: the counter value at which the LED is lit. -/
  ledOnAt : Nat
  /-- PATTERN: the three (on, off) pairs. -/
  pattern : Pattern
  /-- W_PERIOD: width of PERIOD and CNT. -/
  wPeriod : Nat
  /-- W_BLINK: width of BLINK. -/
  wBlink : Nat
  /-- W_PC: width of the sequencer pc; it bounds the ROM length (R60). -/
  wPc : Nat
  /-- PROGRAM: the words of the operation ROM, index 0 first (R60). -/
  program : List OpWord
  /-- RUN_HEAD: pc of the first RUNNING operation. -/
  runHead : Nat
  deriving DecidableEq, Repr, Inhabited

/-- The 23 words of the operation ROM, word by word from the table of R170. -/
def referenceProgram : List OpWord :=
  [0x010000, 0x020000, 0x030000, 0x040000,            -- STARTUP
   0x080000, 0x0907D0,                                -- INCB, LEDA 2000
   0x050000, 0x07026E, 0x040000, 0x060000, 0x0704AB,  -- TX 622, 1195
   0x050000, 0x07026E, 0x040000, 0x060000, 0x0704AB,  -- TX 622, 1195
   0x050000, 0x07026E, 0x040000, 0x060000, 0x07176A,  -- TX 622, 5994
   0x0A07D5, 0x0B0004]                                -- LEDD 2005, LOOP 4

/-- The source's literal timings: (622, 1195), (622, 1195), (622, 5994) microseconds (R8). -/
def referencePattern : Pattern := ⟨⟨622, 1195⟩, ⟨622, 1195⟩, ⟨622, 5994⟩⟩

/-- The reference configuration `Cfg0` (R10): the column "reference value" of R8. -/
def cfg0 : Cfg where
  fClk := 8000000
  fTarget := 38000
  k := 8
  ovh := 0
  nBlink := 2005
  ledOnAt := 2000
  pattern := referencePattern
  wPeriod := 8
  wBlink := 16
  wPc := 5
  program := referenceProgram
  runHead := 4

end Sys2Proof
end

