-- ==== Sys2Proof/Machine/State.lean ====
section
/-! DEFINITION. The architectural state of the IRB block (spec 10_state.md R21), its faults and refusals, and the state after
reset (R45, 70_reset_and_hazards.md R210). -/

namespace Sys2Proof.Machine

/-- The registers that can hold no value (R44, R45), by the names `F_UNINIT` records (60_exceptions.md R184). -/
inductive RegName where
  | period
  | cnt
  | flag
  | dirLed
  | dirIr
  | vled
  | ir
  deriving DecidableEq, Repr, Inhabited

/-- The four fault outcomes of 60_exceptions.md R181. The hardware raises none of them with the reference ROM; each stops the
machine for good. -/
inductive Fault where
  /-- `F_PC_RANGE(pc)`, code 1: raised by the fetch when `pc >= LEN` (R182). Safe: the machine stops. -/
  | pcRange (pc : Nat)
  /-- `F_ILLEGAL_OP(pc, w)`, code 2: raised by decoding an illegal word (R183, R84). Safe: the machine stops. -/
  | illegalOp (pc : Nat) (w : OpWord)
  /-- `F_DLY_ZERO(pc)`, code 3: raised by DLY with `imm = 0` (R185, 40_busywait.md R104). Safe: the machine stops. -/
  | dlyZero (pc : Nat)
  /-- `F_UNINIT(pc, name)`, code 4: raised by CGEN or `cg_tick` reading a register that holds no value (R184). Safe: the
  machine stops, and no value the spec does not give enters a computation (decision D27). -/
  | uninit (pc : Nat) (reg : RegName)
  deriving DecidableEq, Repr, Inhabited

/-- Why the machine takes no step although nothing faulted. -/
inductive Refusal where
  /-- The host's own: raised by an arm of `exec` whose instruction has no meaning. No arm of this model answers it. Safe. -/
  | notModelled (mnemonic : String)
  /-- `CFG_REFUSED`: raised by `step` when the configuration is not legal (00_scope.md R9). Safe: nothing runs. -/
  | cfgRefused
  deriving DecidableEq, Repr, Inhabited

/-- What a register holds: a value, or `none` for the spec's own state "no value" (10_state.md R44: a register whose reset value
is "none" "holds no value until an operation writes it"; "A model must not substitute 0"). Log entry 1. -/
abbrev Held (α : Type) := Option α

/-- The state of the block: the table of R21, less MODE, which is derived from pc (R23, `State.mode`), with the configuration
(which holds the operation ROM) carried beside the registers (R18; log entry 3). Register contents are unsigned integers (R11);
their widths are parameters, applied by the writes of Machine/Ops.lean (R12; log entry 4). -/
structure State where
  /-- The configuration, with the operation ROM (00_scope.md R8, 20_memory.md R60). No operation writes it (R63, R73). -/
  cfg : Cfg
  /-- pc: index of the operation that executes next (R22). -/
  pc : Nat
  /-- BLINK, W_BLINK bits: the source's BlinkCounter (R24). -/
  blink : Nat
  /-- DLY_US, 16 bits: delay iterations the running DLY still owes (R25). -/
  dlyUs : Nat
  /-- DLY_SUB: clock cycles inside the current delay iteration, 0 to K - 1 (R26). -/
  dlySub : Nat
  /-- EN: 1 while the carrier generator runs (R27). -/
  en : Bit
  /-- PERIOD, W_PERIOD bits: the period register (R28). -/
  period : Held Nat
  /-- CNT, W_PERIOD bits: the phase-tracking counter (R29). -/
  cnt : Held Nat
  /-- FLAG: the match flag (R30). -/
  flag : Held Bit
  /-- DIR_LED: 1 when the LED pin is an output (R31). -/
  dirLed : Held Bit
  /-- DIR_IR: 1 when the IR pin is an output (R31). -/
  dirIr : Held Bit
  /-- VLED: level latch of the visible-LED pin (R32). -/
  vled : Held Bit
  /-- IR: level latch of the IR-emitter pin (R33). -/
  ir : Held Bit
  /-- T: clock cycles since reset, a natural number (R34). -/
  t : Nat
  /-- FAULT: the recorded model fault, if any (R35). -/
  fault : Option Fault
  deriving DecidableEq, Repr, Inhabited

/-- The state after power-on under configuration `c` (the table of R45; R210, R211). -/
def State.resetWith (c : Cfg) : State where
  cfg := c
  pc := 0
  blink := 0
  dlyUs := 0
  dlySub := 0
  en := false
  period := none
  cnt := none
  flag := none
  dirLed := none
  dirIr := none
  vled := none
  ir := none
  t := 0
  fault := none

/-- The machine right after reset: power-on under the reference configuration, the reference ROM in place (R10, R45, R170). -/
def State.reset : State := State.resetWith cfg0

end Sys2Proof.Machine
end

