-- ==== Sys2Proof/Machine/Flags.lean ====
section
/-! DEFINITION. The one status flag of the block and the one comparison an operation makes (spec 10_state.md R30,
43_beacon.md R153, R154, R156). There are no condition codes. -/

namespace Sys2Proof.Machine

/-- FLAG after the generator has toggled the pin: "`cg_tick` sets it to 1 each time it toggles the pin" (R30). -/
def flagRaised : Held Bit := some true

/-- FLAG after CGEN: "CGEN clears it to 0" (R30, R112). -/
def flagCleared : Held Bit := some false

/-- The compare of LEDA and LEDD: equality of two unsigned numbers, computed when the operation executes and not stored (R30,
R153, R156). -/
def blinkEquals (s : State) (n : Nat) : Bool := decide (s.blink = n)

end Sys2Proof.Machine
end

