-- ==== Sys2Proof/Machine/Operands.lean ====
section
/-! DEFINITION. What an operand field means (spec 30_encoding.md R81). Every operand is an immediate (60_exceptions.md R197). -/

namespace Sys2Proof.Machine

/-- The operand as an unsigned number 0 to 65535: microseconds for DLY, the compare value for LEDA and LEDD (R81). -/
def immNat (imm : Operand) : Nat := imm.toNat

/-- The target word index of LOOP, `imm[4:0]` (R81, 43_beacon.md R155). -/
def loopTarget (imm : Operand) : Nat := (imm.extractLsb' 0 5).toNat

end Sys2Proof.Machine
end

