-- ==== Sys2Proof/Machine/Ops.lean ====
section
/-! DEFINITION. The operations every meaning is written over: register writes (spec 00_scope.md R12), what a configuration
determines (R9, 41_carrier.md R110), the fetch (20_memory.md R61), the carrier generator's step and `advance` (41_carrier.md R117,
R118), the shape of an operation (20_memory.md R69), and the recording of a fault (60_exceptions.md R181). The block has no trap
entry and no return from one (R188, R189): raising a fault is the one thing that takes their place. -/

namespace Sys2Proof.Machine

/-! ### Register writes: `REG <- v`, truncated to the register's width (R12) -/

/-- `pc <- target`; a natural number that never wraps (10_state.md R22). -/
def State.setPc (s : State) (n : Nat) : State := { s with pc := n }

/-- `BLINK <- n`, truncated to W_BLINK bits (R12, 10_state.md R24). -/
def State.setBlink (s : State) (n : Nat) : State := { s with blink := n % 2 ^ s.cfg.wBlink }

/-- `DLY_US <- us ; DLY_SUB <- sub` (10_state.md R25, R26; DLY_US has 16 bits). -/
def State.setTimer (s : State) (us sub : Nat) : State := { s with dlyUs := us % 2 ^ 16, dlySub := sub }

/-- `EN <- b` (10_state.md R27). -/
def State.setEn (s : State) (b : Bit) : State := { s with en := b }

/-- `PERIOD <- n`, truncated to W_PERIOD bits (R12, 10_state.md R28). -/
def State.setPeriod (s : State) (n : Nat) : State := { s with period := some (n % 2 ^ s.cfg.wPeriod) }

/-- `CNT <- n`, truncated to W_PERIOD bits (R12, 10_state.md R29). -/
def State.setCnt (s : State) (n : Nat) : State := { s with cnt := some (n % 2 ^ s.cfg.wPeriod) }

/-- A write of FLAG (10_state.md R30). -/
def State.setFlag (s : State) (b : Held Bit) : State := { s with flag := b }

/-- `DIR_LED <- led ; DIR_IR <- ir` (10_state.md R31). -/
def State.setDirs (s : State) (led ir : Bit) : State := { s with dirLed := some led, dirIr := some ir }

/-- `VLED <- b` (10_state.md R32). -/
def State.setVled (s : State) (b : Bit) : State := { s with vled := some b }

/-- `IR <- b`, the sequencer's write of the IR latch (10_state.md R33). -/
def State.setIr (s : State) (b : Bit) : State := { s with ir := some b }

/-- `T <- T + n` (10_state.md R34). -/
def State.addTime (s : State) (n : Nat) : State := { s with t := s.t + n }

/-! ### What the configuration determines -/

/-- `PERVAL = ((F_CLK div F_TARGET) - 1) div 2` (41_carrier.md R110). Where `F_CLK div F_TARGET = 0` the subtraction has no
unsigned value; such a configuration is refused (R9). -/
def perval (c : Cfg) : Nat := (c.fClk / c.fTarget - 1) / 2

/-- One time of the pattern: 1..65535 (R9). -/
def timeLegal (n : Nat) : Bool := decide (1 ≤ n) && decide (n ≤ 65535)

/-- Both times of a pair are legal (R9: "both > 0 for all pattern elements used"). -/
def pairLegal (p : OnOff) : Bool := timeLegal p.on && timeLegal p.off

/-- A configuration is legal only if all of these hold (00_scope.md R9). -/
def cfgLegal (c : Cfg) : Bool :=
  decide (1 ≤ c.fClk) && decide (1 ≤ c.fTarget) && decide (1 ≤ c.fClk / c.fTarget)
    && decide (perval c < 2 ^ c.wPeriod) && decide (1 ≤ c.k)
    && decide (c.nBlink < 2 ^ c.wBlink) && decide (c.ledOnAt < c.nBlink)
    && pairLegal c.pattern.first && pairLegal c.pattern.second && pairLegal c.pattern.third
    && decide (c.program.length ≤ 2 ^ c.wPc) && decide (c.runHead < c.program.length)

/-- The form of the operation ROM: a list of words, index 0 first, of at most 2^W_PC words (20_memory.md R60). Each index has
exactly one word or none, so equal ROMs are equal lists (log entry 6). -/
abbrev Memory.wf (c : Cfg) : Prop := c.program.length ≤ 2 ^ c.wPc

/-- The two observable states of the sequencer (10_state.md R23). -/
inductive Mode where
  | startup
  | running
  deriving DecidableEq, Repr

/-- MODE, derived from pc: STARTUP when `pc < RUN_HEAD`, else RUNNING (10_state.md R23). -/
def State.mode (s : State) : Mode := if s.pc < s.cfg.runHead then .startup else .running

/-- The encoding of MODE: STARTUP = 0, RUNNING = 1 (10_state.md R23). -/
def modeCode : Mode → Nat
  | .startup => 0
  | .running => 1

/-! ### Fetch and decode -/

/-- `MemRead(pc, 1)`: the word `PROGRAM[pc]` when `pc < LEN`, else `F_PC_RANGE(pc)`; no side effect, no time (20_memory.md
R61, 60_exceptions.md R182). -/
def fetch (s : State) : Except Fault OpWord :=
  match s.cfg.program[s.pc]? with
  | some w => .ok w
  | none => .error (.pcRange s.pc)

/-- The operation of a fetched word, or `F_ILLEGAL_OP(pc, w)` (60_exceptions.md R183). -/
def decodeAt (pc : Nat) (w : OpWord) : Except Fault Instr :=
  match decode w with
  | .ok i => .ok i
  | .error _ => .error (.illegalOp pc w)

/-- Fetch, then decode: the first two checks of a step (60_exceptions.md R187). -/
def fetchDecode (s : State) : Except Fault Instr :=
  match fetch s with
  | .ok w => decodeAt s.pc w
  | .error f => .error f

/-- The ROM with word `i` replaced by `w`; a ROM too short is filled up with the illegal word 0x000000 (log entry 14). Not an
operation of the block: nothing writes the ROM (20_memory.md R63). -/
def romWith (rom : List OpWord) (i : Nat) (w : OpWord) : List OpWord :=
  rom.take i ++ List.replicate (i - rom.length) 0 ++ w :: rom.drop (i + 1)

/-! ### The carrier generator's own step and the passage of time -/

/-- The registers `cg_tick` reads and writes. -/
structure Drive where
  en : Bit
  period : Held Nat
  cnt : Held Nat
  flag : Held Bit
  ir : Held Bit
  deriving DecidableEq, Repr

/-- The generator's registers in the state. -/
def State.drive (s : State) : Drive := ⟨s.en, s.period, s.cnt, s.flag, s.ir⟩

/-- The state with the generator's registers replaced. -/
def State.setDrive (s : State) (d : Drive) : State :=
  { s with en := d.en, period := d.period, cnt := d.cnt, flag := d.flag, ir := d.ir }

/-- `cg_tick` (41_carrier.md R117) with CNT of `w` bits: what the carrier generator does in one clock cycle. A read of a register
that holds no value answers its name (R184); CNT is read first, then PERIOD, and IR when it toggles (log entry 12). -/
def driveTick (w : Nat) : Drive → Except RegName Drive
  | ⟨false, period, cnt, flag, ir⟩ => .ok ⟨false, period, cnt, flag, ir⟩
  | ⟨true, _, none, _, _⟩ => .error .cnt
  | ⟨true, none, some _, _, _⟩ => .error .period
  | ⟨true, some p, some c, flag, ir⟩ =>
    if c = p then
      match ir with
      | none => .error .ir
      | some v => .ok ⟨true, some p, some 0, flagRaised, some (!v)⟩
    else .ok ⟨true, some p, some ((c + 1) % 2 ^ w), flag, ir⟩

/-- `n` times `cg_tick`, stopping at the first read of a register that holds no value. -/
def driveTicks (w : Nat) : Nat → Drive → Except RegName Drive
  | 0, d => .ok d
  | n + 1, d =>
    match driveTick w d with
    | .ok d' => driveTicks w n d'
    | .error r => .error r

/-- `cg_tick` on the whole state (41_carrier.md R117). -/
def cgTick (s : State) : Except Fault State :=
  match driveTick s.cfg.wPeriod s.drive with
  | .ok d => .ok (s.setDrive d)
  | .error r => .error (.uninit s.pc r)

/-- `advance(n)`: `n` repetitions of `cg_tick ; T <- T + 1` (41_carrier.md R118; `Laws.advance_zero`, `Laws.advance_succ` are those
words). With EN = 0 every `cg_tick` does nothing and only T changes (R119), so no repetition is carried out (log entry 11). -/
def advance (n : Nat) (s : State) : Except Fault State :=
  if s.en then
    match driveTicks s.cfg.wPeriod n s.drive with
    | .ok d => .ok ((s.setDrive d).addTime n)
    | .error r => .error (.uninit s.pc r)
  else .ok (s.addTime n)

/-! ### The shape of an operation -/

/-- The outcome of an operation whose register writes gave `r` (or raised a fault): "the register writes happen in the order the
operation's pseudocode lists them; then the operation's time passes (`advance`); then `pc` is updated" (20_memory.md R69). -/
def finish (cycles nextPc : Nat) (r : Except Fault State) : Host.Outcome State Fault Refusal :=
  match r with
  | .error f => .fault f
  | .ok s =>
    match advance cycles s with
    | .error f => .fault f
    | .ok s' => .next (s'.setPc nextPc)

/-- The codes of the faults (60_exceptions.md R181). -/
def faultCode : Fault → Nat
  | .pcRange _ => 1
  | .illegalOp _ _ => 2
  | .dlyZero _ => 3
  | .uninit _ _ => 4

end Sys2Proof.Machine
end

