-- ==== Sys2Proof/Machine/Carrier.lean ====
section
/-! DEFINITION. The operations of the carrier generator: LDPER, CGEN, CGSTOP, IROFF (spec 41_carrier.md R111 to R114). For each,
the register writes, and the meaning: writes, time, pc (20_memory.md R69). -/

namespace Sys2Proof.Machine

/-- LDPER: `PERIOD <- PERVAL` (R111). -/
def ldperWrites (s : State) : Except Fault State := .ok (s.setPeriod (perval s.cfg))

/-- CGEN: read PERIOD (the argument of enable), then `CNT <- 0 ; FLAG <- 0 ; EN <- 1` in this order (R112, R216); IR is not
written. -/
def cgenWrites (s : State) : Except Fault State :=
  match s.period with
  | none => .error (.uninit s.pc .period)
  | some _ => .ok (((s.setCnt 0).setFlag flagCleared).setEn true)

/-- CGSTOP: `EN <- 0`; IR, CNT and FLAG keep what they had (R113). -/
def cgstopWrites (s : State) : Except Fault State := .ok (s.setEn false)

/-- IROFF: `IR <- 1`, without reading it (R114). -/
def iroffWrites (s : State) : Except Fault State := .ok (s.setIr inactive)

/-- LDPER, store the period value (41_carrier.md R111). -/
def execLdper (s : State) : Host.Outcome State Fault Refusal := finish s.cfg.ovh (s.pc + 1) (ldperWrites s)

/-- CGEN, enable the carrier (41_carrier.md R112). -/
def execCgen (s : State) : Host.Outcome State Fault Refusal := finish s.cfg.ovh (s.pc + 1) (cgenWrites s)

/-- CGSTOP, stop the carrier (41_carrier.md R113). -/
def execCgstop (s : State) : Host.Outcome State Fault Refusal := finish s.cfg.ovh (s.pc + 1) (cgstopWrites s)

/-- IROFF, force the IR pin to its inactive level (41_carrier.md R114). -/
def execIroff (s : State) : Host.Outcome State Fault Refusal := finish s.cfg.ovh (s.pc + 1) (iroffWrites s)

end Sys2Proof.Machine
end

