-- ==== Sys2Proof/Machine/Delay.lean ====
section
/-! DEFINITION. The calibrated busy-wait timer: DLY as one step (spec 40_busywait.md R100) and at the grain of the clock cycle
(R101). -/

namespace Sys2Proof.Machine

/-- DLY: the operand check (R104), then `DLY_US <- imm ; DLY_SUB <- 0` (R101). -/
def dlyWrites (imm : Operand) (s : State) : Except Fault State :=
  if immNat imm = 0 then .error (.dlyZero s.pc) else .ok (s.setTimer (immNat imm) 0)

/-- The clock cycles of a DLY: `imm * K`, a natural-number product with no overflow (R100). OVH does not enter (R103). -/
def dlyCycles (imm : Operand) (c : Cfg) : Nat := immNat imm * c.k

/-- DLY, wait `imm` nominal microseconds (R100): `advance(imm * K)`, after which the timer's two counters are 0 again, then
`pc <- pc + 1`. -/
def execDly (imm : Operand) (s : State) : Host.Outcome State Fault Refusal :=
  match dlyWrites imm s with
  | .error f => .fault f
  | .ok s₁ =>
    match advance (dlyCycles imm s.cfg) s₁ with
    | .error f => .fault f
    | .ok s₂ => .next ((s₂.setTimer 0 0).setPc (s.pc + 1))

/-! ### The same wait at clock-cycle grain (R101) -/

/-- The timer's two counters after one clock cycle (the `if` of R101). -/
def timerNext (k us sub : Nat) : Nat × Nat :=
  if sub = k - 1 then (us - 1, 0) else (us, sub + 1)

/-- One clock cycle of a running DLY: `cg_tick ; T <- T + 1`, then the timer's counters (R101). -/
def timerCycle (s : State) : Except Fault State :=
  match cgTick s with
  | .error f => .error f
  | .ok s' => .ok ((s'.addTime 1).setTimer (timerNext s.cfg.k s.dlyUs s.dlySub).1 (timerNext s.cfg.k s.dlyUs s.dlySub).2)

/-- At most `fuel` clock cycles, each "while `DLY_US != 0`" (R101). -/
def timerLoop : Nat → State → Except Fault State
  | 0, s => .ok s
  | fuel + 1, s =>
    if s.dlyUs = 0 then .ok s
    else
      match timerCycle s with
      | .error f => .error f
      | .ok s' => timerLoop fuel s'

end Sys2Proof.Machine
end

