-- ==== Sys2Proof/Machine/Sequencer.lean ====
section
/-! DEFINITION. The sequencer's own operations: PINCFG, PINIDLE, INCB, LEDA, LEDD, LOOP (spec 43_beacon.md R150 to R155). For each,
the register writes, and the meaning: writes, time, pc (20_memory.md R69). -/

namespace Sys2Proof.Machine

/-- PINCFG: `DIR_LED <- 1 ; DIR_IR <- 1`; the level latches are not written (R150). -/
def pincfgWrites (s : State) : Except Fault State := .ok (s.setDirs true true)

/-- PINIDLE: `VLED <- 1 ; IR <- 1` (R151). -/
def pinidleWrites (s : State) : Except Fault State := .ok ((s.setVled inactive).setIr inactive)

/-- INCB: `BLINK <- (BLINK + 1) mod 2^W_BLINK` (R152). -/
def incbWrites (s : State) : Except Fault State := .ok (s.setBlink (s.blink + 1))

/-- LEDA: `if BLINK = imm then VLED <- 0` (R153). -/
def ledaWrites (imm : Operand) (s : State) : Except Fault State :=
  .ok (if blinkEquals s (immNat imm) then s.setVled active else s)

/-- LEDD: `if BLINK = imm then VLED <- 1 ; BLINK <- 0`, both writes or neither (R154). -/
def leddWrites (imm : Operand) (s : State) : Except Fault State :=
  .ok (if blinkEquals s (immNat imm) then (s.setVled inactive).setBlink 0 else s)

/-- LOOP writes no register before its time passes (R155). -/
def loopWrites (s : State) : Except Fault State := .ok s

/-- PINCFG, make both pins outputs (43_beacon.md R150). -/
def execPincfg (s : State) : Host.Outcome State Fault Refusal := finish s.cfg.ovh (s.pc + 1) (pincfgWrites s)

/-- PINIDLE, put both pins at their inactive level (43_beacon.md R151). -/
def execPinidle (s : State) : Host.Outcome State Fault Refusal := finish s.cfg.ovh (s.pc + 1) (pinidleWrites s)

/-- INCB, count one beacon cycle (43_beacon.md R152). -/
def execIncb (s : State) : Host.Outcome State Fault Refusal := finish s.cfg.ovh (s.pc + 1) (incbWrites s)

/-- LEDA, light the visible LED when the counter equals `imm` (43_beacon.md R153). -/
def execLeda (imm : Operand) (s : State) : Host.Outcome State Fault Refusal :=
  finish s.cfg.ovh (s.pc + 1) (ledaWrites imm s)

/-- LEDD, put the visible LED out and restart the counter when it equals `imm` (43_beacon.md R154). -/
def execLedd (imm : Operand) (s : State) : Host.Outcome State Fault Refusal :=
  finish s.cfg.ovh (s.pc + 1) (leddWrites imm s)

/-- LOOP, `advance(OVH)` then `pc <- imm[4:0]`; the target is not checked here (43_beacon.md R155). -/
def execLoop (imm : Operand) (s : State) : Host.Outcome State Fault Refusal :=
  finish s.cfg.ovh (loopTarget imm) (loopWrites s)

end Sys2Proof.Machine
end

