-- ==== Sys2Proof/Machine/Dispatch.lean ====
section
/-! DEFINITION. One arm per operation of the table (spec 30_encoding.md R82). -/

namespace Sys2Proof.Machine

def exec (i : Instr) (s : State) : Host.Outcome State Fault Refusal :=
  match i with
  | .pincfg => Sys2Proof.Machine.execPincfg s
  | .pinidle => Sys2Proof.Machine.execPinidle s
  | .ldper => Sys2Proof.Machine.execLdper s
  | .cgstop => Sys2Proof.Machine.execCgstop s
  | .cgen => Sys2Proof.Machine.execCgen s
  | .iroff => Sys2Proof.Machine.execIroff s
  | .dly imm => Sys2Proof.Machine.execDly imm s
  | .incb => Sys2Proof.Machine.execIncb s
  | .leda imm => Sys2Proof.Machine.execLeda imm s
  | .ledd imm => Sys2Proof.Machine.execLedd imm s
  | .loop imm => Sys2Proof.Machine.execLoop imm s

end Sys2Proof.Machine
end

