-- ==== Sys2Proof/Machine/Step.lean ====
section
/-! DEFINITION. One step of the sequencer: fetch, decode, execute (spec 60_exceptions.md R187), and where an instruction is placed
so that the next step runs it. -/

namespace Sys2Proof.Machine

/-- One operation. An illegal configuration is refused before any step (00_scope.md R9); a recorded fault lets the sequencer execute
nothing more (10_state.md R35); else fetch, decode and execute in the order of R187. -/
def step (s : State) : Host.Outcome State Fault Refusal :=
  if cfgLegal s.cfg then
    match s.fault with
    | some f => .fault f
    | none =>
      match fetchDecode s with
      | .error f => .fault f
      | .ok i => exec i s
  else .refused .cfgRefused

/-- `s` with the instruction whose bits are `w` as ROM word `pc`, where the next step fetches it, and no fault recorded (a recorded
fault would keep the step from fetching). Log entry 13 says how a program comes to run from reset. -/
def State.withFetchWord (s : State) (nbits w : Nat) : State :=
  { s with cfg := { s.cfg with program := romWith s.cfg.program s.pc (tableWord nbits w) }, fault := none }

end Sys2Proof.Machine
end

