-- ==== Sys2Proof/Machine/Assembler.lean ====
section
/-! DEFINITION. The assembler notation of the spec (30_encoding.md R90 to R93): the pseudo-operations and their expansions, labels,
and the text of a line. No part of the running block: it says which ROM a listing stands for. -/

namespace Sys2Proof.Machine

/-- What a line of a listing holds besides its label (R90, R92). -/
inductive Stmt where
  /-- An operation with its operand. -/
  | op (i : Instr)
  /-- LOOP with a label as its operand (R90). -/
  | loopTo (label : List Char)
  /-- CGDIS, the source's `disable()` (41_carrier.md R115). -/
  | cgdis
  /-- TX on, off, the source's `transmit` (42_transmit.md R140). -/
  | tx (on off : Operand)
  deriving DecidableEq, Repr

/-- One line: "A line may start with a label"; a line may hold nothing else (R90). -/
structure Line where
  label : Option (List Char)
  stmt : Option Stmt
  deriving DecidableEq, Repr

/-- CGDIS is the two words `CGSTOP ; IROFF` in that order (41_carrier.md R115, R92). -/
def cgdisExpansion : List Instr := [.cgstop, .iroff]

/-- `TX on, off` expands to five words, in this order (42_transmit.md R140, R92). -/
def txExpansion (on off : Operand) : List Instr := [.cgen, .dly on, .cgstop, .iroff, .dly off]

/-- How many ROM words a line occupies (R92). -/
def lineWords (l : Line) : Nat :=
  match l.stmt with
  | none => 0
  | some (.op _) => 1
  | some (.loopTo _) => 1
  | some .cgdis => 2
  | some (.tx _ _) => 5

/-- The labels of a listing whose first word has index `i`, each with the word index of its line; labels after a pseudo-operation
count its expanded length (R90, R92). -/
def labelsFrom (i : Nat) : List Line → List (List Char × Nat)
  | [] => []
  | l :: rest =>
    match l.label with
    | some name => (name, i) :: labelsFrom (i + lineWords l) rest
    | none => labelsFrom (i + lineWords l) rest

/-- The word index of a label; a label given twice has none (log entry 18). -/
def labelIndex (labels : List (List Char × Nat)) (name : List Char) : Option Nat :=
  match labels.filter (fun p => p.1 == name) with
  | [p] => some p.2
  | _ => none

/-- LOOP to a word index, where the 5-bit operand can hold it (R81). -/
def loopAt (n : Nat) : Option Instr := if n < 32 then some (.loop (BitVec.ofNat 16 n)) else none

/-- The operations of one line. -/
def expandLine (labels : List (List Char × Nat)) (l : Line) : Option (List Instr) :=
  match l.stmt with
  | none => some []
  | some (.op i) => some [i]
  | some (.loopTo name) => ((labelIndex labels name).bind loopAt).map fun i => [i]
  | some .cgdis => some cgdisExpansion
  | some (.tx on off) => some (txExpansion on off)

/-- The operations of a listing. -/
def expandLines (labels : List (List Char × Nat)) : List Line → Option (List Instr)
  | [] => some []
  | l :: rest =>
    match expandLine labels l, expandLines labels rest with
    | some a, some b => some (a ++ b)
    | _, _ => none

/-- The ROM words a listing stands for. -/
def assemble (ls : List Line) : Option (List OpWord) := (expandLines (labelsFrom 0 ls) ls).map (·.map encode)

/-! ### The text of a line (R90) -/

/-- "A semicolon starts a comment that runs to the end of the line." -/
def stripComment (cs : List Char) : List Char := cs.takeWhile (· != ';')

/-- A blank, or the comma between TX's operands. -/
def isBlank (c : Char) : Bool := c == ' ' || c == ',' || c == '\t'

/-- The words of a line. `cur` holds the word being read. -/
def tokensFrom (cur : List Char) : List Char → List (List Char)
  | [] => if cur.isEmpty then [] else [cur]
  | c :: cs =>
    if isBlank c then (if cur.isEmpty then tokensFrom [] cs else cur :: tokensFrom [] cs) else tokensFrom (cur ++ [c]) cs

/-- The value of a digit in base 16. -/
def digitValue (c : Char) : Option Nat :=
  if '0' ≤ c ∧ c ≤ '9' then some (c.toNat - '0'.toNat)
  else if 'a' ≤ c ∧ c ≤ 'f' then some (c.toNat - 'a'.toNat + 10)
  else if 'A' ≤ c ∧ c ≤ 'F' then some (c.toNat - 'A'.toNat + 10)
  else none

/-- The number the digits write in `base`, after `acc`. -/
def digitsFrom (base acc : Nat) : List Char → Option Nat
  | [] => some acc
  | c :: cs =>
    match digitValue c with
    | some d => if d < base then digitsFrom base (acc * base + d) cs else none
    | none => none

/-- An operand "in decimal (or `0x` hexadecimal)" (R90). -/
def parseNumber : List Char → Option Nat
  | [] => none
  | ['0', 'x'] => none
  | '0' :: 'x' :: cs => digitsFrom 16 0 cs
  | c :: cs => digitsFrom 10 0 (c :: cs)

/-- A number as an operand, where its 16 bits can hold it (R81). -/
def literal (n : Nat) : Option Operand := if n < 2 ^ 16 then some (BitVec.ofNat 16 n) else none

/-- A 16-bit operand. -/
def parseOperand (cs : List Char) : Option Operand :=
  (parseNumber cs).bind literal

/-- The operand of LOOP: a word index or a label (R90). DESIGN CHOICE (log entry 18): an operand that reads as a number is the word
index, also where a label of the listing has that same name; R90 does not say which wins. -/
def parseLoop (cs : List Char) : Option Stmt :=
  match parseNumber cs with
  | some n => (loopAt n).map .op
  | none => some (.loopTo cs)

/-- A statement: "a mnemonic in capitals, then, for DLY, LEDA, LEDD and LOOP, one operand" (R90), or a pseudo-operation (R92). -/
def parseStmt : List (List Char) → Option Stmt
  | [['P', 'I', 'N', 'C', 'F', 'G']] => some (.op .pincfg)
  | [['P', 'I', 'N', 'I', 'D', 'L', 'E']] => some (.op .pinidle)
  | [['L', 'D', 'P', 'E', 'R']] => some (.op .ldper)
  | [['C', 'G', 'S', 'T', 'O', 'P']] => some (.op .cgstop)
  | [['C', 'G', 'E', 'N']] => some (.op .cgen)
  | [['I', 'R', 'O', 'F', 'F']] => some (.op .iroff)
  | [['D', 'L', 'Y'], a] => (parseOperand a).map fun n => .op (.dly n)
  | [['I', 'N', 'C', 'B']] => some (.op .incb)
  | [['L', 'E', 'D', 'A'], a] => (parseOperand a).map fun n => .op (.leda n)
  | [['L', 'E', 'D', 'D'], a] => (parseOperand a).map fun n => .op (.ledd n)
  | [['L', 'O', 'O', 'P'], a] => parseLoop a
  | [['C', 'G', 'D', 'I', 'S']] => some .cgdis
  | [['T', 'X'], a, b] =>
    match parseOperand a, parseOperand b with
    | some on, some off => some (.tx on off)
    | _, _ => none
  | _ => none

/-- The statement of a line's words, none where there are none. -/
def parseRest (label : Option (List Char)) (ts : List (List Char)) : Option Line :=
  if ts.isEmpty then some ⟨label, none⟩ else (parseStmt ts).map fun st => ⟨label, some st⟩

/-- A line: an optional label `name:`, then an optional statement (R90). -/
def parseLine (cs : List Char) : Option Line :=
  match tokensFrom [] (stripComment cs) with
  | [] => some ⟨none, none⟩
  | t :: ts =>
    if t.getLast? = some ':' then parseRest (some t.dropLast) ts else parseRest none (t :: ts)

/-- The lines of a text; none if one of them does not parse. -/
def parseLines : List (List Char) → Option (List Line)
  | [] => some []
  | cs :: rest =>
    match parseLine cs, parseLines rest with
    | some l, some ls => some (l :: ls)
    | _, _ => none

/-- The ROM words a text stands for. -/
def assembleText (ls : List (List Char)) : Option (List OpWord) := (parseLines ls).bind assemble

/-! ### The beacon listing of R170 -/

/-- The label of the RUNNING steps in R170. -/
def runLabel : List Char := ['r', 'u', 'n']

/-- A line without a label. -/
def plain (st : Stmt) : Line := ⟨none, some st⟩

/-- TX of a pair of the pattern. -/
def txOf (p : OnOff) : Option Stmt := (literal p.on).bind fun on => (literal p.off).map fun off => .tx on off

/-- The listing of R170 with the literals N_BLINK, LED_ON_AT and PATTERN of the configuration (R8, decision D25). DESIGN CHOICE (log
entry 24): where W_BLINK > 16 lets a legal N_BLINK or LED_ON_AT exceed 65535 (R9), no LEDD or LEDA operand holds it, R170 and
70_reset_and_hazards.md R220 name none, and there is no listing; no literal is truncated. -/
def beaconListing (c : Cfg) : Option (List Line) :=
  match literal c.ledOnAt, literal c.nBlink, txOf c.pattern.first, txOf c.pattern.second, txOf c.pattern.third with
  | some ledOnAt, some nBlink, some first, some second, some third =>
    some
      [plain (.op .pincfg), plain (.op .pinidle), plain (.op .ldper), plain (.op .cgstop),
       ⟨some runLabel, some (.op .incb)⟩, plain (.op (.leda ledOnAt)), plain first, plain second, plain third,
       plain (.op (.ledd nBlink)), plain (.loopTo runLabel)]
  | _, _, _, _, _ => none

end Sys2Proof.Machine
end

