-- ==== Sys2Proof/Machine/ClosedForm.lean ====
section
/-! DEFINITION. The closed form of `advance` (spec 41_carrier.md R119, R124). The machine does not run it: it counts cycle by cycle
(`driveTick`). Statements use it to say where an operation leaves the carrier. -/

namespace Sys2Proof.Machine

/-- The cycle, numbered from 1, at whose end the pin first toggles, with CNT = `c` and PERIOD = `p`: `p + 1 - c` when `c <= p`, else
`2^W_PERIOD - c + p + 1`, the counter having wrapped through 0 (R119). -/
def firstToggle (w c p : Nat) : Nat := if c ≤ p then p + 1 - c else 2 ^ w - c + p + 1

/-- How many times IR toggles in `n` cycles: every `p + 1` cycles from the first toggle on (R119). -/
def toggleCount (w c p n : Nat) : Nat :=
  if n < firstToggle w c p then 0 else 1 + (n - firstToggle w c p) / (p + 1)

/-- CNT after `n` cycles (R119). -/
def cntAfter (w c p n : Nat) : Nat :=
  if n < firstToggle w c p then (c + n) % 2 ^ w else (n - firstToggle w c p) % (p + 1)

/-- The level after `k` toggles: `v` if `k` is even, `not v` if odd (R119). -/
def levelAfter (v : Bit) (k : Nat) : Bit := if k % 2 = 1 then !v else v

/-- The state after `n` clock cycles in which nothing faults: with EN = 0 only T changes; with EN = 1 CNT, IR and FLAG change too
(R119). -/
def afterCycles (n : Nat) (s : State) : State :=
  match s.en, s.cnt, s.period with
  | true, some c, some p =>
    { s with
      cnt := some (cntAfter s.cfg.wPeriod c p n)
      ir := s.ir.map (fun v => levelAfter v (toggleCount s.cfg.wPeriod c p n))
      flag := if toggleCount s.cfg.wPeriod c p n = 0 then s.flag else some true
      t := s.t + n }
  | true, none, _ => { s with t := s.t + n }
  | true, some _, none => { s with t := s.t + n }
  | false, _, _ => { s with t := s.t + n }

end Sys2Proof.Machine
end

