-- ==== Sys2Proof/Machine/Observe.lean ====
section
/-! DEFINITION. What the outside sees: the two pins over time (spec 70_reset_and_hazards.md R228, 00_scope.md R13), and the two
tables it needs, what each operation writes before its time passes (20_memory.md R69) and how many clock cycles it takes (R225). -/

namespace Sys2Proof.Machine

/-- A pin as the outside sees it. -/
inductive PinLevel where
  /-- The direction bit is 1 and the latch holds this level (R228). -/
  | driven (level : Bit)
  /-- The direction bit is 1 and the latch holds no value: "the level outside is then unknown" (60_exceptions.md R184; U13). -/
  | undetermined
  /-- The direction bit is not 1: the block does not drive the pin and nothing is said of its level (10_state.md R31; U12). -/
  | notDriven
  deriving DecidableEq, Repr

/-- "The latch value if the direction bit is 1 and 'not driven' otherwise" (R228). -/
def pinLevel (dir latch : Held Bit) : PinLevel :=
  match dir, latch with
  | some true, some b => .driven b
  | some true, none => .undetermined
  | some false, _ => .notDriven
  | none, _ => .notDriven

/-- The pair (level of the LED pin, level of the IR pin) of R228. -/
def pins (s : State) : PinLevel × PinLevel := (pinLevel s.dirLed s.vled, pinLevel s.dirIr s.ir)

/-- `led_lit = (DIR_LED = 1 and VLED = 0)` (R13). DESIGN CHOICE (log entry 25): false where DIR_LED = 1 and VLED holds no value; the outside
level is then any value (U13) and R13 gives the predicate no truth value. -/
abbrev ledLit (s : State) : Prop := s.dirLed = some true ∧ s.vled = some active

/-- `ir_emitting = (DIR_IR = 1 and IR = 0)` (R13). DESIGN CHOICE (log entry 25): false where DIR_IR = 1 and IR holds no value, so that
`¬ irEmitting` alone does not say that the emitter is dark. -/
abbrev irEmitting (s : State) : Prop := s.dirIr = some true ∧ s.ir = some active

/-- The register writes of an operation, before its time passes. -/
def instrWrites : Instr → State → Except Fault State
  | .pincfg => pincfgWrites
  | .pinidle => pinidleWrites
  | .ldper => ldperWrites
  | .cgstop => cgstopWrites
  | .cgen => cgenWrites
  | .iroff => iroffWrites
  | .dly imm => dlyWrites imm
  | .incb => incbWrites
  | .leda imm => ledaWrites imm
  | .ledd imm => leddWrites imm
  | .loop _ => loopWrites

/-- The clock cycles of an operation: the table of R225. -/
def instrCycles (i : Instr) (c : Cfg) : Nat :=
  match i with
  | .dly imm => dlyCycles imm c
  | .pincfg | .pinidle | .ldper | .cgstop | .cgen | .iroff | .incb | .leda _ | .ledd _ | .loop _ => c.ovh

/-- The pins during each of `n` clock cycles of an `advance`: the interval between edge `t` and edge `t + 1` shows the latches as
they stand before the `cg_tick` of that cycle (R228). It ends before a cycle that faults. -/
def cycleTrace : Nat → State → List (PinLevel × PinLevel)
  | 0, _ => []
  | n + 1, s =>
    match cgTick s with
    | .ok s' => pins s :: cycleTrace n (s'.addTime 1)
    | .error _ => []

/-- In how many of the `n` clock cycles of an `advance` the pin toggles (the `toggles` of 41_carrier.md R119, counted one by one). It ends
before a cycle that faults. -/
def togglesIn : Nat → State → Nat
  | 0, _ => 0
  | n + 1, s =>
    match cgTick s with
    | .ok s' => togglesIn n (s'.addTime 1) + if s'.ir = s.ir then 0 else 1
    | .error _ => 0

/-- The pins during the clock cycles of one operation. -/
def opTrace (i : Instr) (s : State) : List (PinLevel × PinLevel) :=
  match instrWrites i s with
  | .ok s' => cycleTrace (instrCycles i s.cfg) s'
  | .error _ => []

end Sys2Proof.Machine
end

