-- ==== Sys2Proof/Machine/Run.lean ====
section
/-! DEFINITION. Runs: the state with a fault recorded (spec 60_exceptions.md R181, 10_state.md R35) and `run_iter(k)`
(43_beacon.md R172). Neither is hardware: they are the model's, "a model function". -/

namespace Sys2Proof.Machine

/-- The clock cycles of an `advance(n)` that pass before a cycle that faults; `n` where none faults. -/
def cyclesDone : Nat → State → Nat
  | 0, _ => 0
  | n + 1, s =>
    match cgTick s with
    | .ok s' => cyclesDone n (s'.addTime 1) + 1
    | .error _ => 0

/-- T when the step from `s` faults: the cycles completed by then have passed (41_carrier.md R118; the carrier generator "is not
advanced any more", R181). -/
def timeAtFault (s : State) : Nat :=
  match fetchDecode s with
  | .error _ => s.t
  | .ok i =>
    match instrWrites i s with
    | .error _ => s.t
    | .ok s' => s.t + cyclesDone (instrCycles i s.cfg) s'

/-- FREE VALUE: the registers after a fault, which "are not specified, and no claim may rest on them" (R181, U20). No body:
nothing can be proved of it (log entry 8). -/
opaque freeAfterFault : Fault → State → State

/-- What is recorded when the step from `s` raises `f`: "`FAULT` is set to the code with its recorded value; `pc` keeps the index of
the faulting operation" (R181), and the clock cycles completed by then have passed. The other registers are free, but after
F_DLY_ZERO, which "changes nothing else" (40_busywait.md R104). -/
def recordFault (s : State) (f : Fault) : State :=
  match f with
  | .pcRange _ | .illegalOp _ _ | .uninit _ _ =>
    { freeAfterFault f s with cfg := s.cfg, pc := s.pc, t := timeAtFault s, fault := some f }
  | .dlyZero _ => { s with fault := some f }

/-- The pins during each clock cycle of the next `n` operations (70_reset_and_hazards.md R228); it ends with a step that does not go
on, and from a state with a fault recorded no cycle passes any more (60_exceptions.md R181, 10_state.md R35). With OVH = 0 several operations execute in no time, and the level of a cycle is the one left by the last of them. -/
def runTrace : Nat → State → List (PinLevel × PinLevel)
  | 0, _ => []
  | n + 1, s =>
    match s.fault, fetchDecode s, step s with
    | some _, _, _ => []
    | none, .ok i, .next s' => opTrace i s ++ runTrace n s'
    | none, .ok i, .fault _ => opTrace i s
    | none, .ok _, .refused _ => []
    | none, .error _, _ => []

/-- Whether the operation about to execute is a LOOP. -/
def atLoop (s : State) : Bool :=
  match fetchDecode s with
  | .ok (.loop _) => true
  | .ok _ => false
  | .error _ => false

/-- How a bounded run ends. -/
inductive RunEnd where
  /-- LOOP has executed the asked number of times. -/
  | looped (s : State)
  /-- A fault is recorded. -/
  | faulted (s : State)
  /-- The configuration is refused. -/
  | refused (r : Refusal)
  /-- The bound on the number of operations was too small. -/
  | outOfFuel (s : State)
  deriving DecidableEq, Repr

/-- `run_iter(k)`: "execute operations from the current state until LOOP has executed `k` times, or a fault is recorded" (R172), with
a bound on the number of operations so that the function is total (log entry 20). -/
def runIter : Nat → Nat → State → RunEnd
  | _, 0, s => .looped s
  | 0, _ + 1, s => .outOfFuel s
  | fuel + 1, k + 1, s =>
    match s.fault with
    | some _ => .faulted s
    | none =>
      match step s with
      | .fault f => .faulted (recordFault s f)
      | .refused r => .refused r
      | .next s' => runIter fuel (if atLoop s then k else k + 1) s'

end Sys2Proof.Machine
end

