-- ==== Sys2Proof/Safety.lean ====
section
/-! DEFINITION. What counts as a safe state or run of the block, in the terms the statements use. -/

namespace Sys2Proof.Machine

/-- Where `advance(n)` reads only registers that hold a value (60_exceptions.md R184): no cycle passes, or the generator is
stopped, or CNT and PERIOD hold values and IR holds one too or is not toggled within `n` cycles. -/
def CarrierRuns (n : Nat) (s : State) : Prop :=
  n = 0 ∨ s.en = false ∨
    ∃ c, s.cnt = some c ∧ ∃ p, s.period = some p ∧ (s.ir ≠ none ∨ n < firstToggle s.cfg.wPeriod c p)

/-- PERIOD and CNT, where they hold a value, are within W_PERIOD bits (10_state.md R28, R29). -/
def CarrierFits (s : State) : Prop :=
  (∀ p, s.period = some p → p < 2 ^ s.cfg.wPeriod) ∧ (∀ c, s.cnt = some c → c < 2 ^ s.cfg.wPeriod)

/-- Every register is within its width (10_state.md R21, R22 and 00_scope.md R12: a write truncates). pc holds a natural number: a
ROM index or the one after the last, or a LOOP target of 5 bits (R22). -/
structure WidthsHold (s : State) : Prop where
  carrier : CarrierFits s
  blink : s.blink < 2 ^ s.cfg.wBlink
  dlyUs : s.dlyUs < 2 ^ 16
  dlySub : s.dlySub < s.cfg.k
  pc : s.pc ≤ max (2 ^ s.cfg.wPc) 31

/-- The timer is idle, as at every operation boundary (10_state.md R25, R26). -/
def TimerIdle (s : State) : Prop := s.dlyUs = 0 ∧ s.dlySub = 0

/-- While the generator runs, CNT and PERIOD hold values (60_exceptions.md R184, 41_carrier.md R112). -/
def CarrierLoaded (s : State) : Prop := s.en = true → s.cnt ≠ none ∧ s.period ≠ none

/-- Emitter silence: the generator is stopped and the IR latch is at its inactive level (41_carrier.md R121). -/
def Silent (s : State) : Prop := s.en = false ∧ s.ir = some inactive

/-- The conditions of 00_scope.md R9, as it lists them. -/
structure LegalCfg (c : Cfg) : Prop where
  clock : 1 ≤ c.fClk
  target : 1 ≤ c.fTarget
  ratio : 1 ≤ c.fClk / c.fTarget
  period : (c.fClk / c.fTarget - 1) / 2 < 2 ^ c.wPeriod
  calibration : 1 ≤ c.k
  blink : c.nBlink < 2 ^ c.wBlink
  ledOn : c.ledOnAt < c.nBlink
  times : ∀ p ∈ [c.pattern.first, c.pattern.second, c.pattern.third], (1 ≤ p.on ∧ p.on ≤ 65535) ∧ (1 ≤ p.off ∧ p.off ≤ 65535)
  romLength : c.program.length ≤ 2 ^ c.wPc
  head : c.runHead < c.program.length

/-- The ROM words from index `i` on begin with the encodings of `is`. -/
def RomHolds (s : State) (i : Nat) (is : List Instr) : Prop :=
  ∀ j, ∀ h : j < is.length, s.cfg.program[i + j]? = some (encode is[j])

/-- The words of the reference ROM at which the carrier is enabled: the DLY after a CGEN and the CGSTOP after that DLY
(41_carrier.md R123). -/
def carrierOnAt : List Nat := [7, 8, 12, 13, 17, 18]

/-- The IROFF words of the reference ROM (41_carrier.md R123). -/
def iroffAt : List Nat := [9, 14, 19]

/-- The words of the reference ROM between INCB and LEDD, at which BLINK has counted the running iteration. -/
def countedAt (pc : Nat) : Prop := 5 ≤ pc ∧ pc ≤ 21

/-- Whether the visible LED is lit at word `pc` of the reference ROM with BLINK = `b`: from LEDA at 2000 to LEDD at 2005
(43_beacon.md R176). At word 5, LEDA itself, BLINK is already one ahead. -/
def ledShouldBeLit (pc b : Nat) : Prop := if pc = 5 then 2001 ≤ b else 2000 ≤ b

/-- What holds at every operation boundary of a run of the reference ROM, under any legal configuration that holds it and a BLINK
wide enough for 2005 (41_carrier.md R123, 43_beacon.md R175, R176, R178, 10_state.md R46). -/
structure BeaconInv (s : State) : Prop where
  legal : cfgLegal s.cfg = true
  rom : s.cfg.program = referenceProgram
  head : s.cfg.runHead = 4
  blinkFits : 2005 < 2 ^ s.cfg.wBlink
  noFault : s.fault = none
  pc : s.pc ≤ 22
  timer : TimerIdle s
  dirs : 1 ≤ s.pc → s.dirLed = some true ∧ s.dirIr = some true
  period : 3 ≤ s.pc → s.period = some (perval s.cfg)
  enable : s.en = true ↔ s.pc ∈ carrierOnAt
  counter : s.en = true → ∃ c, s.cnt = some c ∧ c < 2 ^ s.cfg.wPeriod
  latched : 2 ≤ s.pc → s.ir ≠ none
  silent : 2 ≤ s.pc → s.en = false → s.pc ∉ iroffAt → s.ir = some inactive
  blinkStart : s.pc ≤ 3 → s.blink = 0
  blinkCounted : countedAt s.pc → 1 ≤ s.blink ∧ s.blink ≤ 2005
  blinkBetween : ¬ countedAt s.pc → s.blink ≤ 2004
  led : 2 ≤ s.pc → (s.vled = some active ↔ ledShouldBeLit s.pc s.blink) ∧ (s.vled = some inactive ↔ ¬ ledShouldBeLit s.pc s.blink)

/-- The level of the IR pin in cycle `j` of an iteration of the beacon under Cfg0 (43_beacon.md R174): in the three on-windows, each of
4976 cycles, the square wave of 105 cycles a half-period that starts dark (41_carrier.md R125); else forced off. -/
def beaconLevel (j : Nat) : Bit :=
  if j < 4976 then decide (j / 105 % 2 = 0)
  else if 14536 ≤ j ∧ j < 19512 then decide ((j - 14536) / 105 % 2 = 0)
  else if 29072 ≤ j ∧ j < 34048 then decide ((j - 29072) / 105 % 2 = 0)
  else inactive

end Sys2Proof.Machine
end

