-- ==== Sys2Proof/Certificates/Slice0/Obligations.lean ====
section
/-! DEFINITION. The statements for the provers. Each names the rule of spec/ it formalises; states are compared whole, so that a
statement of an operation's result is also its frame and says that the operation completes. `afterCycles n s` is the closed form of the
passage of `n` clock cycles (41_carrier.md R119, its own statement below); `CarrierRuns n s` says that those cycles read only
registers that hold a value (60_exceptions.md R184); `CarrierFits` and `WidthsHold` say that registers are within their widths
(their own statement below). -/

open Sys2Proof Sys2Proof.Machine

/-! ### Encoding -/

/-- Decoding the word of any well-formed instruction gives the instruction back, whatever its operand (30_encoding.md sections 1
to 3). -/
def Obligations.EncodedInstrDecodesToItself : Prop :=
  ∀ i : Instr, WellFormed i → decode (encode i) = .ok i

/-- A word that decodes is the one word of its instruction, which is well-formed (30_encoding.md sections 1 to 3, D26: "One spelling
per operation"). -/
def Obligations.DecodedWordIsItsEncoding : Prop :=
  ∀ (w : OpWord) (i : Instr), decode w = .ok i → WellFormed i ∧ encode i = w

/-- R82: a word is the operation of a row of the table exactly when `w and mask = match`; no two rows overlap. -/
def Obligations.TableRowSelectsItsWords : Prop :=
  (opTable.Pairwise fun a b => ∀ w : OpWord, ¬ (w &&& a.mask = a.matchBits ∧ w &&& b.mask = b.matchBits)) ∧
  ∀ r ∈ opTable, ∀ w : OpWord,
    w &&& r.mask = r.matchBits ↔ ∃ i, decode w = .ok i ∧ opcode i = r.code ∧ operandOf i = immField w

/-- R84: the illegal words are exactly the four listed kinds, each raises `F_ILLEGAL_OP(pc, w)` when it is fetched, the all-zero word is
one of them, and the reference ROM holds none. R183 names the same fault. -/
def Obligations.IllegalWordsFaultWhenFetched : Prop :=
  (∀ w : OpWord, (∃ e, decode w = .error e) ↔
    opField w = 0x00 ∨ 0x0C ≤ (opField w).toNat ∨
    ((opField w).toNat ∈ [0x01, 0x02, 0x03, 0x04, 0x05, 0x06, 0x08] ∧ immField w ≠ 0) ∨
    (opField w = 0x0B ∧ loopReserved (immField w) ≠ 0)) ∧
  (∀ (s : State) (w : OpWord), cfgLegal s.cfg = true → s.fault = none → s.cfg.program[s.pc]? = some w →
    (∃ e, decode w = .error e) → step s = .fault (.illegalOp s.pc w)) ∧
  (∃ e, decode 0x000000 = .error e) ∧
  (∀ w ∈ referenceProgram, ∃ i, decode w = .ok i)

/-- The worked encodings of R93 and one word of every operation of R82 decode to the operation they stand for. -/
def Obligations.WrittenOutWordsDecode : Prop :=
  decode 0x07026E = .ok (.dly 622) ∧ decode 0x0704AB = .ok (.dly 1195) ∧ decode 0x07176A = .ok (.dly 5994) ∧
  decode 0x0907D0 = .ok (.leda 2000) ∧ decode 0x0A07D5 = .ok (.ledd 2005) ∧ decode 0x0B0004 = .ok (.loop 4) ∧
  decode 0x050000 = .ok .cgen ∧
  (txExpansion 622 1195).map encode = [0x050000, 0x07026E, 0x040000, 0x060000, 0x0704AB]

/-! ### The step -/

/-- Under a legal configuration and with no fault recorded, a step runs the instruction its pc's ROM word decodes to; nothing is added
around `exec`, which moves the pc itself (60_exceptions.md section 3, 20_memory.md section 3). -/
def Obligations.StepRunsDecodedInstr : Prop :=
  ∀ (s : State) (w : OpWord) (i : Instr), cfgLegal s.cfg = true → s.fault = none → s.cfg.program[s.pc]? = some w →
    decode w = .ok i → step s = exec i s

/-- An instruction placed by `withFetchWord` is the one the next step runs, and no other ROM word changes. (The placing is the
model's interface, log entry 13.) -/
def Obligations.PlacedWordRunsNext : Prop :=
  ∀ (s : State) (w : Nat) (i : Instr), cfgLegal s.cfg = true → s.pc < s.cfg.program.length →
    decodeTableWord 24 w = some i →
    step (s.withFetchWord 24 w) = exec i (s.withFetchWord 24 w) ∧
    ∀ j, j ≠ s.pc → (s.withFetchWord 24 w).cfg.program[j]? = s.cfg.program[j]?

/-- R182: a fetch with pc not less than LEN raises `F_PC_RANGE(pc)`; it is reached only by falling off the end of the ROM or by a LOOP
whose target is not a ROM word. -/
def Obligations.FetchBeyondRomFaults : Prop :=
  (∀ s : State, cfgLegal s.cfg = true → s.fault = none → s.cfg.program.length ≤ s.pc → step s = .fault (.pcRange s.pc)) ∧
  (∀ s s' : State, step s = .next s' → s'.cfg.program.length ≤ s'.pc →
    (s.pc + 1 = s.cfg.program.length ∧ s'.pc = s.cfg.program.length) ∨
    ∃ imm, fetchDecode s = .ok (.loop imm) ∧ s.cfg.program.length ≤ imm.toNat % 32)

/-- R9: the machine refuses exactly the configurations that break one of the listed conditions, before any step. -/
def Obligations.IllegalConfigurationRefused : Prop :=
  ∀ s : State, step s = .refused .cfgRefused ↔ ¬ LegalCfg s.cfg

/-- No operation refuses, and a step refuses for no other reason than its configuration (60_exceptions.md section 4: "Every operation is
available always"). -/
def Obligations.NoOperationRefuses : Prop :=
  (∀ (i : Instr) (s : State) (r : Refusal), exec i s ≠ .refused r) ∧
  (∀ (s : State) (r : Refusal), step s = .refused r → r = .cfgRefused)

/-- A recorded fault lets nothing execute and is never cleared, and no step that goes on records one (10_state.md section 6,
60_exceptions.md section 3). No clock cycle passes any more, so the pins' trace from there is empty. The recording itself keeps pc and names the fault; that a step's fault outcome and the recording are apart
is the model's (log entry 7). -/
def Obligations.RecordedFaultStops : Prop :=
  (∀ (s : State) (f : Fault), cfgLegal s.cfg = true → s.fault = some f → step s = .fault f) ∧
  (∀ s s' : State, step s = .next s' → s.fault = none ∧ s'.fault = none) ∧
  (∀ (s : State) (f : Fault), step s = .fault f → s.fault = none →
    (recordFault s f).fault = some f ∧ (recordFault s f).pc = s.pc ∧ step (recordFault s f) = .fault f) ∧
  (∀ (n : Nat) (s : State) (f : Fault), s.fault = some f → runTrace n s = [])

/-- R187: the order of checks within one step is fetch, decode, the operand check of DLY, execution, and a step reports the first; each
fault names the pc of the faulting operation. -/
def Obligations.FaultChecksAreOrdered : Prop :=
  ∀ (s : State) (f : Fault), s.fault = none → step s = .fault f →
    (s.cfg.program.length ≤ s.pc ∧ f = .pcRange s.pc) ∨
    ∃ w, s.cfg.program[s.pc]? = some w ∧
      ((∃ e, decode w = .error e) ∧ f = .illegalOp s.pc w ∨
       decode w = .ok (.dly 0) ∧ f = .dlyZero s.pc ∨
       (∃ i, decode w = .ok i ∧ i ≠ .dly 0) ∧ ∃ r, f = .uninit s.pc r)

/-! ### Time and the carrier generator -/

/-- R119: the closed form of `advance(n)`: with EN = 1 and CNT at most PERIOD; the j-th toggle at the end of cycle `j * (p + 1) - c`; with
EN = 0; and with CNT above PERIOD, the first toggle after `2^W_PERIOD - c + p + 1` cycles and the closed form from there; and the number
of toggles, counted cycle by cycle. -/
def Obligations.AdvanceHasClosedForm : Prop :=
  (∀ (s : State) (n p c : Nat) (v : Bit), s.en = true → s.period = some p → s.cnt = some c → s.ir = some v →
    c ≤ p → p < 2 ^ s.cfg.wPeriod →
    advance n s = .ok { s with
      cnt := some ((c + n) % (p + 1))
      ir := some (if (c + n) / (p + 1) % 2 = 0 then v else !v)
      flag := if 1 ≤ (c + n) / (p + 1) then some true else s.flag
      t := s.t + n }) ∧
  (∀ (s : State) (j p c : Nat) (v : Bit), s.en = true → s.period = some p → s.cnt = some c → s.ir = some v →
    c ≤ p → p < 2 ^ s.cfg.wPeriod → 1 ≤ j →
    ∃ s₁ s₂, advance (j * (p + 1) - c - 1) s = .ok s₁ ∧ advance (j * (p + 1) - c) s = .ok s₂ ∧
      s₁.ir = some (if (j - 1) % 2 = 0 then v else !v) ∧ s₂.ir = some (if j % 2 = 0 then v else !v) ∧ s₂.cnt = some 0) ∧
  (∀ (s : State) (n : Nat), s.en = false → advance n s = .ok { s with t := s.t + n }) ∧
  (∀ (s : State) (n p c : Nat) (v : Bit), s.en = true → s.period = some p → s.cnt = some c → s.ir = some v →
    p < c → c < 2 ^ s.cfg.wPeriod →
    (n < 2 ^ s.cfg.wPeriod - c + p + 1 →
      advance n s = .ok { s with cnt := some ((c + n) % 2 ^ s.cfg.wPeriod), t := s.t + n }) ∧
    (advance (2 ^ s.cfg.wPeriod - c + p + 1 + n) s = .ok { s with
      cnt := some (n % (p + 1))
      ir := some (if n / (p + 1) % 2 = 0 then !v else v)
      flag := some true
      t := s.t + (2 ^ s.cfg.wPeriod - c + p + 1 + n) })) ∧
  (∀ (s : State) (n p c : Nat) (v : Bit), s.en = true → s.period = some p → s.cnt = some c → s.ir = some v →
    c ≤ p → p < 2 ^ s.cfg.wPeriod → togglesIn n s = (c + n) / (p + 1))

/-- `advance` completes exactly when the cycles read only registers that hold a value, and otherwise raises F_UNINIT with the name of the
first one read without a value (60_exceptions.md section 1). That CNT is read before PERIOD is the model's choice (log entry 12). -/
def Obligations.AdvanceFaultsOnlyOnMissingValues : Prop :=
  ∀ (n : Nat) (s : State), CarrierFits s →
    (CarrierRuns n s → advance n s = .ok (afterCycles n s)) ∧
    (¬ CarrierRuns n s →
      advance n s = .error (.uninit s.pc (if s.cnt = none then .cnt else if s.period = none then .period else .ir)))

/-- The pins during an on-window, cycle by cycle: while the carrier runs from CNT = c with IR = v, cycle j shows `v` or `not v` as the
number of toggles before it is even or odd, if the IR pin is an output (70_reset_and_hazards.md section 4, 41_carrier.md
section 4). (Where in a cycle the
pins are sampled: log entry 19.) -/
def Obligations.OnWindowTraceIsSquareWave : Prop :=
  ∀ (s : State) (n p c : Nat) (v : Bit), s.en = true → s.period = some p → s.cnt = some c → s.ir = some v → s.dirIr = some true →
    c ≤ p → p < 2 ^ s.cfg.wPeriod →
    (cycleTrace n s).length = n ∧
    ∀ j < n, ((cycleTrace n s)[j]?).map Prod.snd = some (.driven (if (c + j) / (p + 1) % 2 = 0 then v else !v))

/-- R110: PERVAL from the configuration, its reference value 104, and truncating once at the end gives the same number whenever
`F_CLK div F_TARGET >= 1`. -/
def Obligations.PeriodValueTruncatesAlike : Prop :=
  (∀ c : Cfg, perval c = (c.fClk / c.fTarget - 1) / 2) ∧ perval cfg0 = 104 ∧
  (∀ c : Cfg, 1 ≤ c.fClk / c.fTarget → perval c = (c.fClk - c.fTarget) / (2 * c.fTarget)) ∧
  (∀ s : State, s.cfg.fClk / s.cfg.fTarget = 0 ∨ 2 ^ s.cfg.wPeriod ≤ perval s.cfg → step s = .refused .cfgRefused)

/-! ### The operations: effect, frame and completion -/

/-- R150: PINCFG writes both direction bits and nothing else but what its OVH cycles change. -/
def Obligations.PincfgMakesBothPinsOutputs : Prop :=
  ∀ s : State, CarrierFits s → CarrierRuns s.cfg.ovh s →
    exec .pincfg s =
      .next { afterCycles s.cfg.ovh { s with dirLed := some true, dirIr := some true } with pc := s.pc + 1 }

/-- R151: PINIDLE writes 1 to both level latches; while EN = 1 the write of IR is not final, for its OVH cycles may invert it. -/
def Obligations.PinidlePutsBothPinsInactive : Prop :=
  ∀ s : State, CarrierFits s → CarrierRuns s.cfg.ovh { s with vled := some true, ir := some true } →
    exec .pinidle s =
      .next { afterCycles s.cfg.ovh { s with vled := some true, ir := some true } with pc := s.pc + 1 }

/-- R111: LDPER writes PERVAL to PERIOD; CNT is not touched (R124). -/
def Obligations.LdperStoresPeriodValue : Prop :=
  ∀ s : State, LegalCfg s.cfg → CarrierFits s →
    CarrierRuns s.cfg.ovh { s with period := some ((s.cfg.fClk / s.cfg.fTarget - 1) / 2) } →
    exec .ldper s =
      .next { afterCycles s.cfg.ovh { s with period := some ((s.cfg.fClk / s.cfg.fTarget - 1) / 2) } with pc := s.pc + 1 }

/-- R112: CGEN with a value in PERIOD clears CNT and FLAG and sets EN, and does not write IR; with no value there it raises
F_UNINIT. -/
def Obligations.CgenEnablesFromCleanPhase : Prop :=
  (∀ (s : State) (p : Nat), s.period = some p → p < 2 ^ s.cfg.wPeriod →
    CarrierRuns s.cfg.ovh { s with cnt := some 0, flag := some false, en := true } →
    exec .cgen s =
      .next { afterCycles s.cfg.ovh { s with cnt := some 0, flag := some false, en := true } with pc := s.pc + 1 }) ∧
  (∀ s : State, s.period = none → exec .cgen s = .fault (.uninit s.pc .period))

/-- R113: CGSTOP stops the generator and leaves IR, CNT and FLAG; it never faults. -/
def Obligations.CgstopLeavesThePinLevel : Prop :=
  ∀ s : State, exec .cgstop s = .next { s with en := false, t := s.t + s.cfg.ovh, pc := s.pc + 1 }

/-- R114: IROFF writes 1 to IR whatever it held. -/
def Obligations.IroffForcesThePinInactive : Prop :=
  ∀ s : State, CarrierFits s → CarrierRuns s.cfg.ovh { s with ir := some true } →
    exec .iroff s = .next { afterCycles s.cfg.ovh { s with ir := some true } with pc := s.pc + 1 }

/-- R100: DLY lets `imm * K` clock cycles pass and leaves the timer's two counters at 0; it raises F_UNINIT where one of those cycles
reads a register that holds no value, and F_DLY_ZERO where `imm = 0` (R104). -/
def Obligations.DlyLetsExactlyItsCyclesPass : Prop :=
  (∀ (s : State) (imm : Operand), imm ≠ 0 → CarrierFits s → CarrierRuns (imm.toNat * s.cfg.k) s →
    exec (.dly imm) s =
      .next { afterCycles (imm.toNat * s.cfg.k) s with dlyUs := 0, dlySub := 0, pc := s.pc + 1 }) ∧
  (∀ (s : State) (imm : Operand), imm ≠ 0 → CarrierFits s → ¬ CarrierRuns (imm.toNat * s.cfg.k) s →
    ∃ r, exec (.dly imm) s = .fault (.uninit s.pc r)) ∧
  (∀ s : State, exec (.dly 0) s = .fault (.dlyZero s.pc))

/-- R101: the timer's loop takes exactly `imm * K` cycles, DLY_US is not 0 before the last of them, and the two grains agree: the state
after the loop is the state after `advance(imm * K)` with DLY_US = DLY_SUB = 0. -/
def Obligations.TimerGrainsAgree : Prop :=
  ∀ (s : State) (imm : Operand), 1 ≤ s.cfg.k → imm ≠ 0 →
    (timerLoop (imm.toNat * s.cfg.k) (s.setTimer imm.toNat 0) =
      match advance (imm.toNat * s.cfg.k) s with
      | .ok s' => .ok { s' with dlyUs := 0, dlySub := 0 }
      | .error f => .error f) ∧
    (∀ (m : Nat) (s' : State), m < imm.toNat * s.cfg.k → timerLoop m (s.setTimer imm.toNat 0) = .ok s' →
      s'.dlyUs ≠ 0 ∧ s'.dlySub < s.cfg.k ∧ (imm.toNat - s'.dlyUs) * s.cfg.k + s'.dlySub = m)

/-- R152: INCB counts modulo 2^W_BLINK. -/
def Obligations.IncbCountsModuloWidth : Prop :=
  ∀ s : State, CarrierFits s → CarrierRuns s.cfg.ovh s →
    exec .incb s =
      .next { afterCycles s.cfg.ovh { s with blink := (s.blink + 1) % 2 ^ s.cfg.wBlink } with pc := s.pc + 1 }

/-- R153: LEDA writes VLED = 0 when BLINK equals the operand and writes nothing when it does not. -/
def Obligations.LedaLightsOnEquality : Prop :=
  ∀ (s : State) (imm : Operand), CarrierFits s → CarrierRuns s.cfg.ovh s →
    (s.blink = imm.toNat → exec (.leda imm) s =
      .next { afterCycles s.cfg.ovh { s with vled := some false } with pc := s.pc + 1 }) ∧
    (s.blink ≠ imm.toNat → exec (.leda imm) s = .next { afterCycles s.cfg.ovh s with pc := s.pc + 1 })

/-- R154: LEDD writes VLED = 1 and BLINK = 0 when BLINK equals the operand; both writes happen or neither does. -/
def Obligations.LeddRestartsOnEquality : Prop :=
  ∀ (s : State) (imm : Operand), CarrierFits s → CarrierRuns s.cfg.ovh s →
    (s.blink = imm.toNat → exec (.ledd imm) s =
      .next { afterCycles s.cfg.ovh { s with vled := some true, blink := 0 } with pc := s.pc + 1 }) ∧
    (s.blink ≠ imm.toNat → exec (.ledd imm) s = .next { afterCycles s.cfg.ovh s with pc := s.pc + 1 })

/-- R155: LOOP sets pc to `imm[4:0]`, unconditionally and without checking it against the ROM length; a target at or beyond it makes the
next fetch raise `F_PC_RANGE`. -/
def Obligations.LoopJumpsToItsTarget : Prop :=
  ∀ (s : State) (imm : Operand), CarrierFits s → CarrierRuns s.cfg.ovh s →
    exec (.loop imm) s = .next { afterCycles s.cfg.ovh s with pc := imm.toNat % 32 } ∧
    (cfgLegal s.cfg = true → s.fault = none → s.cfg.program.length ≤ imm.toNat % 32 →
      step { afterCycles s.cfg.ovh s with pc := imm.toNat % 32 } = .fault (.pcRange (imm.toNat % 32)))

/-! ### Over all operations -/

/-- R225: DLY takes `imm * K` clock cycles, every other operation OVH, and nothing else takes time; under Cfg0, K = 8 and OVH = 0. -/
def Obligations.OperationsTakeTheirCycles : Prop :=
  (∀ (i : Instr) (s s' : State), exec i s = .next s' →
    s'.t = s.t + match i with
      | .dly imm => imm.toNat * s.cfg.k
      | _ => s.cfg.ovh) ∧
  (∀ s s' : State, step s = .next s' → ∃ i, fetchDecode s = .ok i ∧ exec i s = .next s') ∧
  cfg0.k = 8 ∧ cfg0.ovh = 0

/-- An operation faults exactly where DLY has operand 0, where CGEN reads a PERIOD without a value, or where one of its clock cycles,
after its register writes, reads a register without a value; and the last two raise F_UNINIT (60_exceptions.md section 1). -/
def Obligations.OperationsFaultOnlyWhereListed : Prop :=
  ∀ (i : Instr) (s : State), CarrierFits s →
    ((∃ f, exec i s = .fault f) ↔
      i = .dly 0 ∨ (i = .cgen ∧ s.period = none) ∨
        ∃ s₁, instrWrites i s = .ok s₁ ∧ ¬ CarrierRuns (instrCycles i s.cfg) s₁) ∧
    (∀ f, exec i s = .fault f → i ≠ .dly 0 → ∃ r, f = .uninit s.pc r)

/-- Every operation other than LOOP ends with `pc <- pc + 1`, computed without wrap-around; LOOP with `pc <- imm[4:0]` (10_state.md section
2). -/
def Obligations.OnlyLoopTransfersControl : Prop :=
  ∀ (i : Instr) (s s' : State), exec i s = .next s' →
    s'.pc = match i with
      | .loop imm => imm.toNat % 32
      | _ => s.pc + 1

/-- R73: no operation can write the operation ROM: every fetch of word `i` returns the same value for the life of the device (over any
number of steps), and no other parameter of the configuration changes. -/
def Obligations.RomIsNeverWritten : Prop :=
  ∀ (k : Nat) (s s' : State), Host.Core.run Sys2Proof.core k s = .next s' →
    s'.cfg = s.cfg ∧ ∀ i : Nat, s'.cfg.program[i]? = s.cfg.program[i]?

/-- R116: only LDPER, CGEN, CGSTOP and `cg_tick` write PERIOD, EN, CNT and FLAG; only PINIDLE, IROFF and `cg_tick` write IR. What
`cg_tick` writes is what `advance` does to those registers. -/
def Obligations.OnlyTheCarrierOperationsWriteItsRegisters : Prop :=
  ∀ (i : Instr) (s s' : State), exec i s = .next s' →
    (i ∉ [.ldper, .cgen, .cgstop, .pinidle, .iroff] →
      ∃ s₁, advance (instrCycles i s.cfg) s = .ok s₁ ∧ s'.drive = s₁.drive) ∧
    (i ∈ [.pinidle, .iroff] →
      ∃ s₁, advance s.cfg.ovh { s with ir := some true } = .ok s₁ ∧ s'.drive = s₁.drive) ∧
    (i ∈ [.ldper, .cgen, .cgstop] → ∃ s₁ s₂, s₁.ir = s.ir ∧ s₁.cfg = s.cfg ∧ s₁.pc = s.pc ∧
      advance s.cfg.ovh s₁ = .ok s₂ ∧ s'.drive = s₂.drive)

/-- BLINK is written by INCB and LEDD alone, VLED by PINIDLE, LEDA and LEDD, the direction bits by PINCFG, and nothing ever clears a
direction bit; the passage of time writes none of them (10_state.md sections 2 and 5). -/
def Obligations.SequencerRegistersHaveOneWriter : Prop :=
  ∀ (i : Instr) (s s' : State), exec i s = .next s' →
    (i ≠ .incb → (∀ imm, i ≠ .ledd imm) → s'.blink = s.blink) ∧
    (i ≠ .pinidle → (∀ imm, i ≠ .leda imm ∧ i ≠ .ledd imm) → s'.vled = s.vled) ∧
    (i ≠ .pincfg → s'.dirLed = s.dirLed ∧ s'.dirIr = s.dirIr) ∧
    (s.dirLed = some true → s'.dirLed = some true) ∧ (s.dirIr = some true → s'.dirIr = some true)

/-- R121: from every state, CGSTOP then IROFF complete and leave EN = 0 and IR = 1, whatever EN, IR and CNT were, and IR stays 1 through
every later `advance` and every operation but CGEN. -/
def Obligations.DisableAlwaysSilences : Prop :=
  (∀ s : State, ∃ s₁ s₂, exec .cgstop s = .next s₁ ∧ exec .iroff s₁ = .next s₂ ∧ Silent s₂ ∧
    ∀ n, ∃ s₃, advance n s₂ = .ok s₃ ∧ Silent s₃) ∧
  (∀ (i : Instr) (s s' : State), i ≠ .cgen → Silent s → exec i s = .next s' → Silent s')

/-- With the order reversed and OVH at least 1 the guarantee is lost: for every OVH from 1 to 255 there is a state from which IROFF then
CGSTOP leave the emitter on (41_carrier.md section 2, 70_reset_and_hazards.md section 3). -/
def Obligations.ReversedDisableCanLeaveEmitterOn : Prop :=
  ∀ ovh : Nat, 1 ≤ ovh → ovh ≤ 255 → ∃ s s₁ s₂ : State, s.cfg = { cfg0 with ovh := ovh } ∧ WidthsHold s ∧ irEmitting s ∧
    exec .iroff s = .next s₁ ∧ exec .cgstop s₁ = .next s₂ ∧ s₂.en = false ∧ irEmitting s₂

/-- R141: the net effect of the five words of TX, wherever they stand in a ROM, the level of IR just before IROFF, and the number of
toggles in the cycles the carrier runs from what CGEN writes. -/
def Obligations.TxHasItsNetEffect : Prop :=
  ∀ (s : State) (on off : Operand) (p : Nat) (v : Bit), cfgLegal s.cfg = true → s.fault = none →
    RomHolds s s.pc (txExpansion on off) → s.period = some p → p < 2 ^ s.cfg.wPeriod → s.ir = some v → on ≠ 0 → off ≠ 0 →
    let nEn := s.cfg.ovh + on.toNat * s.cfg.k
    Host.Core.run Sys2Proof.core 5 s = .next { s with
      en := false
      ir := some true
      cnt := some (nEn % (p + 1))
      flag := some (decide (p + 1 ≤ nEn))
      dlyUs := 0
      dlySub := 0
      t := s.t + (on.toNat + off.toNat) * s.cfg.k + 3 * s.cfg.ovh
      pc := s.pc + 5 } ∧
    (∃ s₃, Host.Core.run Sys2Proof.core 3 s = .next s₃ ∧ s₃.ir = some (if nEn / (p + 1) % 2 = 0 then v else !v)) ∧
    togglesIn nEn { s with cnt := some 0, flag := some false, en := true } = nEn / (p + 1)

/-- The state after TX does not depend on EN, CNT, FLAG or IR before it (42_transmit.md section 2), as long as IR holds a value. -/
def Obligations.TxForgetsTheCarrierBefore : Prop :=
  ∀ (s : State) (on off : Operand) (p : Nat) (v v' : Bit) (e : Bit) (c : Held Nat) (f : Held Bit),
    cfgLegal s.cfg = true → s.fault = none → RomHolds s s.pc (txExpansion on off) → s.period = some p → p < 2 ^ s.cfg.wPeriod →
    s.ir = some v → on ≠ 0 → off ≠ 0 →
    ∃ s', Host.Core.run Sys2Proof.core 5 s = .next s' ∧
      Host.Core.run Sys2Proof.core 5 { s with en := e, cnt := c, flag := f, ir := some v' } = .next s'

/-- The sequencer cannot see the carrier's phase, the calibration or the clock: two states that differ only in CNT, FLAG, IR, T, K and OVH
step, where both do, to states that agree on every other register (10_state.md section 7, 70_reset_and_hazards.md section 4). -/
def Obligations.SequencerIsBlindToThePhase : Prop :=
  ∀ (s a b : State) (c : Held Nat) (f l : Held Bit) (t k ovh : Nat),
    step s = .next a →
    step { s with cnt := c, flag := f, ir := l, t := t, cfg := { s.cfg with k := k, ovh := ovh } } = .next b →
    a.pc = b.pc ∧ a.blink = b.blink ∧ a.en = b.en ∧ a.period = b.period ∧ a.dirLed = b.dirLed ∧ a.dirIr = b.dirIr ∧
      a.vled = b.vled ∧ a.dlyUs = b.dlyUs ∧ a.dlySub = b.dlySub ∧ a.fault = b.fault

/-! ### Reset and invariants -/

/-- R45: the state after reset. -/
def Obligations.ResetLeavesTheListedValues : Prop :=
  State.reset.pc = 0 ∧ State.reset.mode = .startup ∧ State.reset.blink = 0 ∧ State.reset.dlyUs = 0 ∧ State.reset.dlySub = 0 ∧
  State.reset.en = false ∧ State.reset.period = none ∧ State.reset.cnt = none ∧ State.reset.flag = none ∧
  State.reset.dirLed = none ∧ State.reset.dirIr = none ∧ State.reset.vled = none ∧ State.reset.ir = none ∧
  State.reset.t = 0 ∧ State.reset.fault = none

/-- R46: the state when STARTUP has completed, for every OVH: T is `4 * OVH`, which is 0 under Cfg0. -/
def Obligations.StartupEndsInItsListedState : Prop :=
  ∀ ovh : Nat, ∃ s, Host.Core.run Sys2Proof.core 4 (State.resetWith { cfg0 with ovh := ovh }) = .next s ∧
    s.pc = 4 ∧ s.mode = .running ∧ s.blink = 0 ∧ s.dlyUs = 0 ∧ s.dlySub = 0 ∧ s.en = false ∧ s.period = some 104 ∧
    s.cnt = none ∧ s.flag = none ∧ s.dirLed = some true ∧ s.dirIr = some true ∧ s.vled = some true ∧ s.ir = some true ∧
    s.t = 4 * ovh ∧ s.fault = none

/-- Every step keeps every register within its width (10_state.md section 1; log entries 4 and 5 say how widths are held). -/
def Obligations.EveryStepKeepsTheWidths : Prop :=
  ∀ s s' : State, WidthsHold s → step s = .next s' → WidthsHold s'

/-- CNT (and PERIOD) hold a value whenever EN = 1, because only CGEN sets EN and it reads PERIOD and writes CNT first (60_exceptions.md
section 1). -/
def Obligations.EveryStepKeepsTheCarrierLoaded : Prop :=
  ∀ s s' : State, CarrierLoaded s → step s = .next s' → CarrierLoaded s'

/-- DLY_US and DLY_SUB are 0 at every operation boundary (10_state.md section 3). -/
def Obligations.EveryStepKeepsTheTimerIdle : Prop :=
  ∀ s s' : State, TimerIdle s → step s = .next s' → TimerIdle s'

/-- Every step keeps the form of the operation ROM, and what reset leaves has it, with the three invariants above. -/
def Obligations.ResetMeetsTheInvariants : Prop :=
  Memory.wf State.reset.cfg ∧ WidthsHold State.reset ∧ CarrierLoaded State.reset ∧ TimerIdle State.reset

/-- With the reference ROM every step completes and keeps the invariant of the beacon, under every legal K, OVH and clock: the carrier is
enabled exactly at words 7, 8, 12, 13, 17, 18, IR is 1 wherever it is stopped except at the IROFF words, BLINK stays in 0..2005, and the
LED is lit exactly from LEDA at 2000 to LEDD at 2005 (41_carrier.md section 4, 43_beacon.md section 3, 60_exceptions.md section 1). -/
def Obligations.BeaconNeverFaultsAndKeepsItsInvariant : Prop :=
  ∀ s : State, BeaconInv s → ∃ s', step s = .next s' ∧ BeaconInv s'

/-- Reset meets the invariant of the beacon. -/
def Obligations.ResetMeetsTheBeaconInvariant : Prop :=
  BeaconInv State.reset

/-- The transition from STARTUP to RUNNING is never taken back (10_state.md section 2). -/
def Obligations.BeaconNeverReturnsToStartup : Prop :=
  ∀ s s' : State, BeaconInv s → s.mode = .running → step s = .next s' → s'.mode = .running

/-- `n` iterations of the beacon from the head of the loop: they take `n * (10250 * K + 13 * OVH)` clock cycles, end at the head with the
carrier stopped and the emitter dark, and the counter has gone on by `n` modulo 2005, its period (43_beacon.md section 3; n = 1 and n = 2005
are the source's own properties). -/
def Obligations.BeaconIterationsKeepTimeAndCount : Prop :=
  ∀ (n : Nat) (s : State), BeaconInv s → s.pc = 4 →
    ∃ s', runIter (19 * n) n s = .looped s' ∧ BeaconInv s' ∧ s'.pc = 4 ∧
      s'.t = s.t + n * (10250 * s.cfg.k + 13 * s.cfg.ovh) ∧ s'.blink = (s.blink + n) % 2005 ∧ Silent s'

/-- From reset, the state at the head of every iteration, `i` iterations having completed (each of 19 operations, after the four of
STARTUP), so that the one about to run is number `i + 1`. It is also at T = 82000 * i
(43_beacon.md section 3: R178, and R173 for the time). -/
def Obligations.HeadOfEveryIteration : Prop :=
  ∀ i : Nat, ∃ s, Host.Core.run Sys2Proof.core (4 + 19 * i) State.reset = .next s ∧
    s.pc = 4 ∧ s.en = false ∧ s.ir = some true ∧ s.period = some 104 ∧ s.dirLed = some true ∧ s.dirIr = some true ∧
    s.dlyUs = 0 ∧ s.dlySub = 0 ∧
    s.cnt = (if i = 0 then none else some 41) ∧ s.flag = (if i = 0 then none else some true) ∧
    s.vled = some (if 2000 ≤ i % 2005 then false else true) ∧ s.blink = i % 2005 ∧ s.t = 82000 * i

/-- The pins, cycle by cycle, over one iteration under Cfg0 from any state of the beacon at the head of the loop: the three
on-windows of 4976 cycles at 0, 14536 and 29072, the IR pin forced off between and after them, 82000 cycles in all; the visible LED is lit
for the whole of the iterations in which BLINK counts 2000 or more (43_beacon.md section 3:
R174, R176; 41_carrier.md section 4: R125; 42_transmit.md section 2: R147). Where in a cycle the pins are sampled is the model's reading,
log entry 19. -/
def Obligations.BeaconPinPattern : Prop :=
  ∀ s : State, BeaconInv s → s.cfg = cfg0 → s.pc = 4 →
    (runTrace 19 s).length = 82000 ∧
    ∀ j < 82000, (runTrace 19 s)[j]? = some (.driven (decide (s.blink + 1 < 2000)), .driven (beaconLevel j))

/-- R170: the listing of the beacon with the reference literals assembles to the 23 words of the operation ROM, and RUN_HEAD is 4.
(The listing is built from the configuration's literals and assembled by the model's assembler, log entry 18.) -/
def Obligations.BeaconListingAssemblesToTheRom : Prop :=
  (beaconListing cfg0).bind assemble = some referenceProgram ∧ State.reset.cfg.program = referenceProgram ∧
  referenceProgram.length = 23 ∧ State.reset.cfg.runHead = 4
end

