-- ==== Sys2Proof/Laws/Decode.lean ====
section
/-! SUPPORT. The fields of an operation word as numbers, and a word rebuilt from its fields. -/

namespace Sys2Proof.Laws

theorem opField_toNat (w : OpWord) : (opField w).toNat = w.toNat / 2 ^ 16 := by
  have := w.isLt
  simp only [opField, BitVec.extractLsb'_toNat, Nat.shiftRight_eq_div_pow]
  omega

theorem immField_toNat (w : OpWord) : (immField w).toNat = w.toNat % 2 ^ 16 := by
  simp [immField, BitVec.extractLsb'_toNat]

theorem mkWord_toNat (op : OpCode) (imm : Operand) : (mkWord op imm).toNat = op.toNat * 2 ^ 16 + imm.toNat := by
  have h : (mkWord op imm).toNat = (op ++ imm : BitVec (8 + 16)).toNat := rfl
  have := imm.isLt
  rw [h, BitVec.toNat_append, ← Nat.shiftLeft_add_eq_or_of_lt this, Nat.shiftLeft_eq]

/-- A word is the concatenation of its two fields (spec 30_encoding.md R80). -/
theorem mkWord_fields (w : OpWord) : mkWord (opField w) (immField w) = w := by
  apply BitVec.eq_of_toNat_eq
  rw [mkWord_toNat, opField_toNat, immField_toNat]
  have := w.isLt
  omega

/-- `imm[15:5]` as a number: what a LOOP operand has above its 5-bit target (R81). -/
theorem loopReserved_toNat (imm : Operand) : (loopReserved imm).toNat = imm.toNat / 32 := by
  have := imm.isLt
  simp only [loopReserved, BitVec.extractLsb'_toNat, Nat.shiftRight_eq_div_pow]
  omega

end Sys2Proof.Laws
end

