-- ==== Sys2Proof/Laws/State.lean ====
section
/-! SUPPORT. What each named update of the state leaves in each field: one lemma per field per update, true by rfl. -/

namespace Sys2Proof.Machine

variable (s : State)

/-! ### setPc -/

@[simp] theorem State.setPc_cfg (n : Nat) : (s.setPc n).cfg = s.cfg := rfl
@[simp] theorem State.setPc_pc (n : Nat) : (s.setPc n).pc = n := rfl
@[simp] theorem State.setPc_blink (n : Nat) : (s.setPc n).blink = s.blink := rfl
@[simp] theorem State.setPc_dlyUs (n : Nat) : (s.setPc n).dlyUs = s.dlyUs := rfl
@[simp] theorem State.setPc_dlySub (n : Nat) : (s.setPc n).dlySub = s.dlySub := rfl
@[simp] theorem State.setPc_en (n : Nat) : (s.setPc n).en = s.en := rfl
@[simp] theorem State.setPc_period (n : Nat) : (s.setPc n).period = s.period := rfl
@[simp] theorem State.setPc_cnt (n : Nat) : (s.setPc n).cnt = s.cnt := rfl
@[simp] theorem State.setPc_flag (n : Nat) : (s.setPc n).flag = s.flag := rfl
@[simp] theorem State.setPc_dirLed (n : Nat) : (s.setPc n).dirLed = s.dirLed := rfl
@[simp] theorem State.setPc_dirIr (n : Nat) : (s.setPc n).dirIr = s.dirIr := rfl
@[simp] theorem State.setPc_vled (n : Nat) : (s.setPc n).vled = s.vled := rfl
@[simp] theorem State.setPc_ir (n : Nat) : (s.setPc n).ir = s.ir := rfl
@[simp] theorem State.setPc_t (n : Nat) : (s.setPc n).t = s.t := rfl
@[simp] theorem State.setPc_fault (n : Nat) : (s.setPc n).fault = s.fault := rfl

/-! ### setBlink -/

@[simp] theorem State.setBlink_cfg (n : Nat) : (s.setBlink n).cfg = s.cfg := rfl
@[simp] theorem State.setBlink_pc (n : Nat) : (s.setBlink n).pc = s.pc := rfl
@[simp] theorem State.setBlink_blink (n : Nat) : (s.setBlink n).blink = n % 2 ^ s.cfg.wBlink := rfl
@[simp] theorem State.setBlink_dlyUs (n : Nat) : (s.setBlink n).dlyUs = s.dlyUs := rfl
@[simp] theorem State.setBlink_dlySub (n : Nat) : (s.setBlink n).dlySub = s.dlySub := rfl
@[simp] theorem State.setBlink_en (n : Nat) : (s.setBlink n).en = s.en := rfl
@[simp] theorem State.setBlink_period (n : Nat) : (s.setBlink n).period = s.period := rfl
@[simp] theorem State.setBlink_cnt (n : Nat) : (s.setBlink n).cnt = s.cnt := rfl
@[simp] theorem State.setBlink_flag (n : Nat) : (s.setBlink n).flag = s.flag := rfl
@[simp] theorem State.setBlink_dirLed (n : Nat) : (s.setBlink n).dirLed = s.dirLed := rfl
@[simp] theorem State.setBlink_dirIr (n : Nat) : (s.setBlink n).dirIr = s.dirIr := rfl
@[simp] theorem State.setBlink_vled (n : Nat) : (s.setBlink n).vled = s.vled := rfl
@[simp] theorem State.setBlink_ir (n : Nat) : (s.setBlink n).ir = s.ir := rfl
@[simp] theorem State.setBlink_t (n : Nat) : (s.setBlink n).t = s.t := rfl
@[simp] theorem State.setBlink_fault (n : Nat) : (s.setBlink n).fault = s.fault := rfl

/-! ### setTimer -/

@[simp] theorem State.setTimer_cfg (us sub : Nat) : (s.setTimer us sub).cfg = s.cfg := rfl
@[simp] theorem State.setTimer_pc (us sub : Nat) : (s.setTimer us sub).pc = s.pc := rfl
@[simp] theorem State.setTimer_blink (us sub : Nat) : (s.setTimer us sub).blink = s.blink := rfl
@[simp] theorem State.setTimer_dlyUs (us sub : Nat) : (s.setTimer us sub).dlyUs = us % 2 ^ 16 := rfl
@[simp] theorem State.setTimer_dlySub (us sub : Nat) : (s.setTimer us sub).dlySub = sub := rfl
@[simp] theorem State.setTimer_en (us sub : Nat) : (s.setTimer us sub).en = s.en := rfl
@[simp] theorem State.setTimer_period (us sub : Nat) : (s.setTimer us sub).period = s.period := rfl
@[simp] theorem State.setTimer_cnt (us sub : Nat) : (s.setTimer us sub).cnt = s.cnt := rfl
@[simp] theorem State.setTimer_flag (us sub : Nat) : (s.setTimer us sub).flag = s.flag := rfl
@[simp] theorem State.setTimer_dirLed (us sub : Nat) : (s.setTimer us sub).dirLed = s.dirLed := rfl
@[simp] theorem State.setTimer_dirIr (us sub : Nat) : (s.setTimer us sub).dirIr = s.dirIr := rfl
@[simp] theorem State.setTimer_vled (us sub : Nat) : (s.setTimer us sub).vled = s.vled := rfl
@[simp] theorem State.setTimer_ir (us sub : Nat) : (s.setTimer us sub).ir = s.ir := rfl
@[simp] theorem State.setTimer_t (us sub : Nat) : (s.setTimer us sub).t = s.t := rfl
@[simp] theorem State.setTimer_fault (us sub : Nat) : (s.setTimer us sub).fault = s.fault := rfl

/-! ### setEn -/

@[simp] theorem State.setEn_cfg (b : Bit) : (s.setEn b).cfg = s.cfg := rfl
@[simp] theorem State.setEn_pc (b : Bit) : (s.setEn b).pc = s.pc := rfl
@[simp] theorem State.setEn_blink (b : Bit) : (s.setEn b).blink = s.blink := rfl
@[simp] theorem State.setEn_dlyUs (b : Bit) : (s.setEn b).dlyUs = s.dlyUs := rfl
@[simp] theorem State.setEn_dlySub (b : Bit) : (s.setEn b).dlySub = s.dlySub := rfl
@[simp] theorem State.setEn_en (b : Bit) : (s.setEn b).en = b := rfl
@[simp] theorem State.setEn_period (b : Bit) : (s.setEn b).period = s.period := rfl
@[simp] theorem State.setEn_cnt (b : Bit) : (s.setEn b).cnt = s.cnt := rfl
@[simp] theorem State.setEn_flag (b : Bit) : (s.setEn b).flag = s.flag := rfl
@[simp] theorem State.setEn_dirLed (b : Bit) : (s.setEn b).dirLed = s.dirLed := rfl
@[simp] theorem State.setEn_dirIr (b : Bit) : (s.setEn b).dirIr = s.dirIr := rfl
@[simp] theorem State.setEn_vled (b : Bit) : (s.setEn b).vled = s.vled := rfl
@[simp] theorem State.setEn_ir (b : Bit) : (s.setEn b).ir = s.ir := rfl
@[simp] theorem State.setEn_t (b : Bit) : (s.setEn b).t = s.t := rfl
@[simp] theorem State.setEn_fault (b : Bit) : (s.setEn b).fault = s.fault := rfl

/-! ### setPeriod -/

@[simp] theorem State.setPeriod_cfg (n : Nat) : (s.setPeriod n).cfg = s.cfg := rfl
@[simp] theorem State.setPeriod_pc (n : Nat) : (s.setPeriod n).pc = s.pc := rfl
@[simp] theorem State.setPeriod_blink (n : Nat) : (s.setPeriod n).blink = s.blink := rfl
@[simp] theorem State.setPeriod_dlyUs (n : Nat) : (s.setPeriod n).dlyUs = s.dlyUs := rfl
@[simp] theorem State.setPeriod_dlySub (n : Nat) : (s.setPeriod n).dlySub = s.dlySub := rfl
@[simp] theorem State.setPeriod_en (n : Nat) : (s.setPeriod n).en = s.en := rfl
@[simp] theorem State.setPeriod_period (n : Nat) : (s.setPeriod n).period = some (n % 2 ^ s.cfg.wPeriod) := rfl
@[simp] theorem State.setPeriod_cnt (n : Nat) : (s.setPeriod n).cnt = s.cnt := rfl
@[simp] theorem State.setPeriod_flag (n : Nat) : (s.setPeriod n).flag = s.flag := rfl
@[simp] theorem State.setPeriod_dirLed (n : Nat) : (s.setPeriod n).dirLed = s.dirLed := rfl
@[simp] theorem State.setPeriod_dirIr (n : Nat) : (s.setPeriod n).dirIr = s.dirIr := rfl
@[simp] theorem State.setPeriod_vled (n : Nat) : (s.setPeriod n).vled = s.vled := rfl
@[simp] theorem State.setPeriod_ir (n : Nat) : (s.setPeriod n).ir = s.ir := rfl
@[simp] theorem State.setPeriod_t (n : Nat) : (s.setPeriod n).t = s.t := rfl
@[simp] theorem State.setPeriod_fault (n : Nat) : (s.setPeriod n).fault = s.fault := rfl

/-! ### setCnt -/

@[simp] theorem State.setCnt_cfg (n : Nat) : (s.setCnt n).cfg = s.cfg := rfl
@[simp] theorem State.setCnt_pc (n : Nat) : (s.setCnt n).pc = s.pc := rfl
@[simp] theorem State.setCnt_blink (n : Nat) : (s.setCnt n).blink = s.blink := rfl
@[simp] theorem State.setCnt_dlyUs (n : Nat) : (s.setCnt n).dlyUs = s.dlyUs := rfl
@[simp] theorem State.setCnt_dlySub (n : Nat) : (s.setCnt n).dlySub = s.dlySub := rfl
@[simp] theorem State.setCnt_en (n : Nat) : (s.setCnt n).en = s.en := rfl
@[simp] theorem State.setCnt_period (n : Nat) : (s.setCnt n).period = s.period := rfl
@[simp] theorem State.setCnt_cnt (n : Nat) : (s.setCnt n).cnt = some (n % 2 ^ s.cfg.wPeriod) := rfl
@[simp] theorem State.setCnt_flag (n : Nat) : (s.setCnt n).flag = s.flag := rfl
@[simp] theorem State.setCnt_dirLed (n : Nat) : (s.setCnt n).dirLed = s.dirLed := rfl
@[simp] theorem State.setCnt_dirIr (n : Nat) : (s.setCnt n).dirIr = s.dirIr := rfl
@[simp] theorem State.setCnt_vled (n : Nat) : (s.setCnt n).vled = s.vled := rfl
@[simp] theorem State.setCnt_ir (n : Nat) : (s.setCnt n).ir = s.ir := rfl
@[simp] theorem State.setCnt_t (n : Nat) : (s.setCnt n).t = s.t := rfl
@[simp] theorem State.setCnt_fault (n : Nat) : (s.setCnt n).fault = s.fault := rfl

/-! ### setFlag -/

@[simp] theorem State.setFlag_cfg (b : Held Bit) : (s.setFlag b).cfg = s.cfg := rfl
@[simp] theorem State.setFlag_pc (b : Held Bit) : (s.setFlag b).pc = s.pc := rfl
@[simp] theorem State.setFlag_blink (b : Held Bit) : (s.setFlag b).blink = s.blink := rfl
@[simp] theorem State.setFlag_dlyUs (b : Held Bit) : (s.setFlag b).dlyUs = s.dlyUs := rfl
@[simp] theorem State.setFlag_dlySub (b : Held Bit) : (s.setFlag b).dlySub = s.dlySub := rfl
@[simp] theorem State.setFlag_en (b : Held Bit) : (s.setFlag b).en = s.en := rfl
@[simp] theorem State.setFlag_period (b : Held Bit) : (s.setFlag b).period = s.period := rfl
@[simp] theorem State.setFlag_cnt (b : Held Bit) : (s.setFlag b).cnt = s.cnt := rfl
@[simp] theorem State.setFlag_flag (b : Held Bit) : (s.setFlag b).flag = b := rfl
@[simp] theorem State.setFlag_dirLed (b : Held Bit) : (s.setFlag b).dirLed = s.dirLed := rfl
@[simp] theorem State.setFlag_dirIr (b : Held Bit) : (s.setFlag b).dirIr = s.dirIr := rfl
@[simp] theorem State.setFlag_vled (b : Held Bit) : (s.setFlag b).vled = s.vled := rfl
@[simp] theorem State.setFlag_ir (b : Held Bit) : (s.setFlag b).ir = s.ir := rfl
@[simp] theorem State.setFlag_t (b : Held Bit) : (s.setFlag b).t = s.t := rfl
@[simp] theorem State.setFlag_fault (b : Held Bit) : (s.setFlag b).fault = s.fault := rfl

/-! ### setDirs -/

@[simp] theorem State.setDirs_cfg (a b : Bit) : (s.setDirs a b).cfg = s.cfg := rfl
@[simp] theorem State.setDirs_pc (a b : Bit) : (s.setDirs a b).pc = s.pc := rfl
@[simp] theorem State.setDirs_blink (a b : Bit) : (s.setDirs a b).blink = s.blink := rfl
@[simp] theorem State.setDirs_dlyUs (a b : Bit) : (s.setDirs a b).dlyUs = s.dlyUs := rfl
@[simp] theorem State.setDirs_dlySub (a b : Bit) : (s.setDirs a b).dlySub = s.dlySub := rfl
@[simp] theorem State.setDirs_en (a b : Bit) : (s.setDirs a b).en = s.en := rfl
@[simp] theorem State.setDirs_period (a b : Bit) : (s.setDirs a b).period = s.period := rfl
@[simp] theorem State.setDirs_cnt (a b : Bit) : (s.setDirs a b).cnt = s.cnt := rfl
@[simp] theorem State.setDirs_flag (a b : Bit) : (s.setDirs a b).flag = s.flag := rfl
@[simp] theorem State.setDirs_dirLed (a b : Bit) : (s.setDirs a b).dirLed = some a := rfl
@[simp] theorem State.setDirs_dirIr (a b : Bit) : (s.setDirs a b).dirIr = some b := rfl
@[simp] theorem State.setDirs_vled (a b : Bit) : (s.setDirs a b).vled = s.vled := rfl
@[simp] theorem State.setDirs_ir (a b : Bit) : (s.setDirs a b).ir = s.ir := rfl
@[simp] theorem State.setDirs_t (a b : Bit) : (s.setDirs a b).t = s.t := rfl
@[simp] theorem State.setDirs_fault (a b : Bit) : (s.setDirs a b).fault = s.fault := rfl

/-! ### setVled -/

@[simp] theorem State.setVled_cfg (b : Bit) : (s.setVled b).cfg = s.cfg := rfl
@[simp] theorem State.setVled_pc (b : Bit) : (s.setVled b).pc = s.pc := rfl
@[simp] theorem State.setVled_blink (b : Bit) : (s.setVled b).blink = s.blink := rfl
@[simp] theorem State.setVled_dlyUs (b : Bit) : (s.setVled b).dlyUs = s.dlyUs := rfl
@[simp] theorem State.setVled_dlySub (b : Bit) : (s.setVled b).dlySub = s.dlySub := rfl
@[simp] theorem State.setVled_en (b : Bit) : (s.setVled b).en = s.en := rfl
@[simp] theorem State.setVled_period (b : Bit) : (s.setVled b).period = s.period := rfl
@[simp] theorem State.setVled_cnt (b : Bit) : (s.setVled b).cnt = s.cnt := rfl
@[simp] theorem State.setVled_flag (b : Bit) : (s.setVled b).flag = s.flag := rfl
@[simp] theorem State.setVled_dirLed (b : Bit) : (s.setVled b).dirLed = s.dirLed := rfl
@[simp] theorem State.setVled_dirIr (b : Bit) : (s.setVled b).dirIr = s.dirIr := rfl
@[simp] theorem State.setVled_vled (b : Bit) : (s.setVled b).vled = some b := rfl
@[simp] theorem State.setVled_ir (b : Bit) : (s.setVled b).ir = s.ir := rfl
@[simp] theorem State.setVled_t (b : Bit) : (s.setVled b).t = s.t := rfl
@[simp] theorem State.setVled_fault (b : Bit) : (s.setVled b).fault = s.fault := rfl

/-! ### setIr -/

@[simp] theorem State.setIr_cfg (b : Bit) : (s.setIr b).cfg = s.cfg := rfl
@[simp] theorem State.setIr_pc (b : Bit) : (s.setIr b).pc = s.pc := rfl
@[simp] theorem State.setIr_blink (b : Bit) : (s.setIr b).blink = s.blink := rfl
@[simp] theorem State.setIr_dlyUs (b : Bit) : (s.setIr b).dlyUs = s.dlyUs := rfl
@[simp] theorem State.setIr_dlySub (b : Bit) : (s.setIr b).dlySub = s.dlySub := rfl
@[simp] theorem State.setIr_en (b : Bit) : (s.setIr b).en = s.en := rfl
@[simp] theorem State.setIr_period (b : Bit) : (s.setIr b).period = s.period := rfl
@[simp] theorem State.setIr_cnt (b : Bit) : (s.setIr b).cnt = s.cnt := rfl
@[simp] theorem State.setIr_flag (b : Bit) : (s.setIr b).flag = s.flag := rfl
@[simp] theorem State.setIr_dirLed (b : Bit) : (s.setIr b).dirLed = s.dirLed := rfl
@[simp] theorem State.setIr_dirIr (b : Bit) : (s.setIr b).dirIr = s.dirIr := rfl
@[simp] theorem State.setIr_vled (b : Bit) : (s.setIr b).vled = s.vled := rfl
@[simp] theorem State.setIr_ir (b : Bit) : (s.setIr b).ir = some b := rfl
@[simp] theorem State.setIr_t (b : Bit) : (s.setIr b).t = s.t := rfl
@[simp] theorem State.setIr_fault (b : Bit) : (s.setIr b).fault = s.fault := rfl

/-! ### addTime -/

@[simp] theorem State.addTime_cfg (n : Nat) : (s.addTime n).cfg = s.cfg := rfl
@[simp] theorem State.addTime_pc (n : Nat) : (s.addTime n).pc = s.pc := rfl
@[simp] theorem State.addTime_blink (n : Nat) : (s.addTime n).blink = s.blink := rfl
@[simp] theorem State.addTime_dlyUs (n : Nat) : (s.addTime n).dlyUs = s.dlyUs := rfl
@[simp] theorem State.addTime_dlySub (n : Nat) : (s.addTime n).dlySub = s.dlySub := rfl
@[simp] theorem State.addTime_en (n : Nat) : (s.addTime n).en = s.en := rfl
@[simp] theorem State.addTime_period (n : Nat) : (s.addTime n).period = s.period := rfl
@[simp] theorem State.addTime_cnt (n : Nat) : (s.addTime n).cnt = s.cnt := rfl
@[simp] theorem State.addTime_flag (n : Nat) : (s.addTime n).flag = s.flag := rfl
@[simp] theorem State.addTime_dirLed (n : Nat) : (s.addTime n).dirLed = s.dirLed := rfl
@[simp] theorem State.addTime_dirIr (n : Nat) : (s.addTime n).dirIr = s.dirIr := rfl
@[simp] theorem State.addTime_vled (n : Nat) : (s.addTime n).vled = s.vled := rfl
@[simp] theorem State.addTime_ir (n : Nat) : (s.addTime n).ir = s.ir := rfl
@[simp] theorem State.addTime_t (n : Nat) : (s.addTime n).t = s.t + n := rfl
@[simp] theorem State.addTime_fault (n : Nat) : (s.addTime n).fault = s.fault := rfl

/-! ### setDrive -/

@[simp] theorem State.setDrive_cfg (d : Drive) : (s.setDrive d).cfg = s.cfg := rfl
@[simp] theorem State.setDrive_pc (d : Drive) : (s.setDrive d).pc = s.pc := rfl
@[simp] theorem State.setDrive_blink (d : Drive) : (s.setDrive d).blink = s.blink := rfl
@[simp] theorem State.setDrive_dlyUs (d : Drive) : (s.setDrive d).dlyUs = s.dlyUs := rfl
@[simp] theorem State.setDrive_dlySub (d : Drive) : (s.setDrive d).dlySub = s.dlySub := rfl
@[simp] theorem State.setDrive_en (d : Drive) : (s.setDrive d).en = d.en := rfl
@[simp] theorem State.setDrive_period (d : Drive) : (s.setDrive d).period = d.period := rfl
@[simp] theorem State.setDrive_cnt (d : Drive) : (s.setDrive d).cnt = d.cnt := rfl
@[simp] theorem State.setDrive_flag (d : Drive) : (s.setDrive d).flag = d.flag := rfl
@[simp] theorem State.setDrive_dirLed (d : Drive) : (s.setDrive d).dirLed = s.dirLed := rfl
@[simp] theorem State.setDrive_dirIr (d : Drive) : (s.setDrive d).dirIr = s.dirIr := rfl
@[simp] theorem State.setDrive_vled (d : Drive) : (s.setDrive d).vled = s.vled := rfl
@[simp] theorem State.setDrive_ir (d : Drive) : (s.setDrive d).ir = d.ir := rfl
@[simp] theorem State.setDrive_t (d : Drive) : (s.setDrive d).t = s.t := rfl
@[simp] theorem State.setDrive_fault (d : Drive) : (s.setDrive d).fault = s.fault := rfl

/-! ### The generator's registers -/

@[simp] theorem State.drive_en : s.drive.en = s.en := rfl
@[simp] theorem State.drive_period : s.drive.period = s.period := rfl
@[simp] theorem State.drive_cnt : s.drive.cnt = s.cnt := rfl
@[simp] theorem State.drive_flag : s.drive.flag = s.flag := rfl
@[simp] theorem State.drive_ir : s.drive.ir = s.ir := rfl
@[simp] theorem State.setDrive_drive : s.setDrive s.drive = s := rfl
@[simp] theorem State.drive_setDrive (d : Drive) : (s.setDrive d).drive = d := rfl
@[simp] theorem State.drive_addTime (n : Nat) : (s.addTime n).drive = s.drive := rfl
@[simp] theorem State.drive_setPc (n : Nat) : (s.setPc n).drive = s.drive := rfl
@[simp] theorem State.drive_setBlink (n : Nat) : (s.setBlink n).drive = s.drive := rfl
@[simp] theorem State.drive_setTimer (us sub : Nat) : (s.setTimer us sub).drive = s.drive := rfl
@[simp] theorem State.drive_setDirs (a b : Bit) : (s.setDirs a b).drive = s.drive := rfl
@[simp] theorem State.drive_setVled (b : Bit) : (s.setVled b).drive = s.drive := rfl
@[simp] theorem State.addTime_zero : s.addTime 0 = s := rfl
@[simp] theorem State.addTime_addTime (m n : Nat) : (s.addTime m).addTime n = s.addTime (m + n) := by
  simp [State.addTime, Nat.add_assoc]

end Sys2Proof.Machine
end

