-- ==== Sys2Proof/Laws/Ops.lean ====
section
/-! SUPPORT. For each shared operation, once, everything it can do. Later proofs cite these and do not unfold the operation. -/

namespace Sys2Proof.Machine

/-! ### The carrier generator's step -/

/-- What one `cg_tick` can do: nothing (EN = 0), toggle (CNT = PERIOD), or count. -/
theorem driveTick_ok {w : Nat} {d d' : Drive} (h : driveTick w d = .ok d') :
    (d.en = false ∧ d' = d) ∨
    (∃ p v, d.en = true ∧ d.period = some p ∧ d.cnt = some p ∧ d.ir = some v ∧
      d' = { d with cnt := some 0, flag := some true, ir := some (!v) }) ∨
    (∃ p c, d.en = true ∧ d.period = some p ∧ d.cnt = some c ∧ c ≠ p ∧
      d' = { d with cnt := some ((c + 1) % 2 ^ w) }) := by
  unfold driveTick at h
  split at h
  · cases h; exact .inl ⟨rfl, rfl⟩
  · cases h
  · cases h
  · next p c flag ir =>
    split at h
    · next hcp =>
      cases ir with
      | none => cases h
      | some v =>
        cases h
        exact .inr (.inl ⟨p, v, rfl, rfl, by rw [hcp], rfl, rfl⟩)
    · next hcp =>
      cases h
      exact .inr (.inr ⟨p, c, rfl, rfl, rfl, hcp, rfl⟩)

/-- `cg_tick` fails exactly on the reads of R184. -/
theorem driveTick_error {w : Nat} {d : Drive} {r : RegName} (h : driveTick w d = .error r) :
    d.en = true ∧
      ((d.cnt = none ∧ r = .cnt) ∨ (d.cnt ≠ none ∧ d.period = none ∧ r = .period) ∨
        (∃ p, d.cnt = some p ∧ d.period = some p ∧ d.ir = none ∧ r = .ir)) := by
  unfold driveTick at h
  split at h <;> try simp_all
  case h_4 p c flag ir =>
    split at h
    · cases ir <;> simp_all
    · simp_all

/-- `cg_tick` writes neither EN nor PERIOD. -/
theorem driveTick_keeps {w : Nat} {d d' : Drive} (h : driveTick w d = .ok d') : d'.en = d.en ∧ d'.period = d.period := by
  rcases driveTick_ok h with ⟨-, rfl⟩ | ⟨p, v, -, -, -, -, rfl⟩ | ⟨p, c, -, -, -, -, rfl⟩ <;> simp

theorem driveTick_stopped {w : Nat} {d : Drive} (h : d.en = false) : driveTick w d = .ok d := by
  obtain ⟨en, period, cnt, flag, ir⟩ := d
  cases h
  rfl

theorem driveTicks_stopped {w : Nat} {d : Drive} (h : d.en = false) (n : Nat) : driveTicks w n d = .ok d := by
  induction n with
  | zero => rfl
  | succ n ih => simp [driveTicks, driveTick_stopped h, ih]

theorem driveTicks_keeps {w n : Nat} {d d' : Drive} (h : driveTicks w n d = .ok d') :
    d'.en = d.en ∧ d'.period = d.period := by
  induction n generalizing d with
  | zero => cases h; simp
  | succ n ih =>
    simp only [driveTicks] at h
    split at h
    · next d₁ h₁ =>
      have := driveTick_keeps h₁
      have := ih h
      simp_all
    · cases h

/-! ### `advance` -/

/-- `advance(0)` does nothing (41_carrier.md R118). -/
theorem advance_zero (s : State) : advance 0 s = .ok s := by
  unfold advance
  split <;> rfl

/-- `advance(n + 1)` is `cg_tick ; T <- T + 1`, then `advance(n)` (41_carrier.md R118). -/
theorem advance_succ (n : Nat) (s : State) :
    advance (n + 1) s =
      match cgTick s with
      | .ok s' => advance n (s'.addTime 1)
      | .error f => .error f := by
  cases hen : s.en with
  | false =>
    have hd : driveTick s.cfg.wPeriod s.drive = .ok s.drive := driveTick_stopped hen
    simp [advance, hen, cgTick, hd, State.addTime, Nat.add_comm, Nat.add_left_comm]
  | true =>
    cases h : driveTick s.cfg.wPeriod s.drive with
    | error r => simp [advance, hen, cgTick, h, driveTicks]
    | ok d =>
      have hk := (driveTick_keeps h).1
      have hd : d.en = true := by simpa [hen] using hk
      simp only [advance, hen, cgTick, h, driveTicks, State.setDrive_en, State.addTime_en, hd, State.drive_addTime,
        State.drive_setDrive, State.addTime_cfg, State.setDrive_cfg, if_true]
      cases driveTicks s.cfg.wPeriod n d with
      | error r => rfl
      | ok d' => simp [State.setDrive, State.addTime, Nat.add_assoc, Nat.add_comm 1]

/-- Everything `advance` can do when it completes: it replaces the generator's registers, EN and PERIOD kept (all five kept when
EN = 0), and adds `n` to T. -/
theorem advance_ok {n : Nat} {s s' : State} (h : advance n s = .ok s') :
    ∃ d : Drive, s' = (s.setDrive d).addTime n ∧ d.en = s.en ∧ d.period = s.period ∧ (s.en = false → d = s.drive) := by
  unfold advance at h
  split at h
  · next hen =>
    split at h
    · next d hd =>
      cases h
      have := driveTicks_keeps hd
      exact ⟨d, rfl, this.1, this.2, by simp [hen]⟩
    · cases h
  · cases h
    exact ⟨s.drive, rfl, rfl, rfl, fun _ => rfl⟩

/-- `advance` fails only by F_UNINIT at the pc of the running operation. -/
theorem advance_error {n : Nat} {s : State} {f : Fault} (h : advance n s = .error f) :
    s.en = true ∧ ∃ r, f = .uninit s.pc r := by
  unfold advance at h
  split at h
  · next hen =>
    split at h
    · cases h
    · next r _ =>
      cases h
      exact ⟨hen, r, rfl⟩
  · cases h

/-- With EN = 0 `advance` changes only T (41_carrier.md R119). -/
@[simp] theorem advance_stopped {s : State} (h : s.en = false) (n : Nat) : advance n s = .ok (s.addTime n) := by
  simp [advance, h]

/-! ### The shape of an operation -/

/-- Everything `finish` can do when it answers a next state. -/
theorem finish_next {cycles target : Nat} {r : Except Fault State} {s' : State} (h : finish cycles target r = .next s') :
    ∃ s₁ s₂, r = .ok s₁ ∧ advance cycles s₁ = .ok s₂ ∧ s' = s₂.setPc target := by
  unfold finish at h
  split at h
  · cases h
  · next s₁ =>
    split at h
    · cases h
    · next s₂ h₂ =>
      cases h
      exact ⟨s₁, s₂, rfl, h₂, rfl⟩

/-- `finish` faults by the fault of the writes or of `advance`. -/
theorem finish_fault {cycles target : Nat} {r : Except Fault State} {f : Fault} (h : finish cycles target r = .fault f) :
    r = .error f ∨ ∃ s₁, r = .ok s₁ ∧ advance cycles s₁ = .error f := by
  unfold finish at h
  split at h
  · cases h; exact .inl rfl
  · next s₁ =>
    split at h
    · next h₂ => cases h; exact .inr ⟨s₁, rfl, h₂⟩
    · cases h

theorem finish_refused {cycles target : Nat} {r : Except Fault State} {x : Refusal} : finish cycles target r ≠ .refused x := by
  unfold finish
  split
  · simp
  · split <;> simp

/-- Everything DLY can do when it answers a next state. -/
theorem execDly_next {imm : Operand} {s s' : State} (h : execDly imm s = .next s') :
    immNat imm ≠ 0 ∧ ∃ s₂, advance (dlyCycles imm s.cfg) (s.setTimer (immNat imm) 0) = .ok s₂ ∧
      s' = (s₂.setTimer 0 0).setPc (s.pc + 1) := by
  unfold execDly dlyWrites at h
  by_cases h0 : immNat imm = 0
  · simp [h0] at h
  · simp only [h0, if_false] at h
    split at h
    · cases h
    · next s₂ h₂ =>
      cases h
      exact ⟨h0, s₂, h₂, rfl⟩

/-- DLY faults by F_DLY_ZERO on a zero operand, else by the fault of `advance`. -/
theorem execDly_fault {imm : Operand} {s : State} {f : Fault} (h : execDly imm s = .fault f) :
    (immNat imm = 0 ∧ f = .dlyZero s.pc) ∨
      (immNat imm ≠ 0 ∧ advance (dlyCycles imm s.cfg) (s.setTimer (immNat imm) 0) = .error f) := by
  unfold execDly dlyWrites at h
  by_cases h0 : immNat imm = 0
  · simp only [h0, if_true] at h
    cases h
    exact .inl ⟨h0, rfl⟩
  · simp only [h0, if_false] at h
    split at h
    · next h₂ => cases h; exact .inr ⟨h0, h₂⟩
    · cases h

/-! ### Fetch, decode, step -/

/-- The fetch answers the ROM word at pc, or F_PC_RANGE at or beyond LEN (20_memory.md R61). -/
theorem fetch_ok {s : State} {w : OpWord} : fetch s = .ok w ↔ s.cfg.program[s.pc]? = some w := by
  unfold fetch
  split <;> simp_all

theorem fetch_error {s : State} {f : Fault} : fetch s = .error f ↔ s.cfg.program.length ≤ s.pc ∧ f = .pcRange s.pc := by
  unfold fetch
  split
  · next w h =>
    have := (List.getElem?_eq_some_iff.mp h).1
    simp only [reduceCtorEq, false_iff, not_and]
    omega
  · next h => simp_all [eq_comm]

theorem fetchDecode_ok {s : State} {i : Instr} :
    fetchDecode s = .ok i ↔ ∃ w, s.cfg.program[s.pc]? = some w ∧ decode w = .ok i := by
  unfold fetchDecode decodeAt
  cases hf : fetch s with
  | error f =>
    have := (fetch_error.mp hf).1
    simp [List.getElem?_eq_none this]
  | ok w =>
    have hw := fetch_ok.mp hf
    cases hd : decode w <;> simp [hw, hd]

theorem fetchDecode_error {s : State} {f : Fault} :
    fetchDecode s = .error f ↔
      (s.cfg.program.length ≤ s.pc ∧ f = .pcRange s.pc) ∨
      (∃ w e, s.cfg.program[s.pc]? = some w ∧ decode w = .error e ∧ f = .illegalOp s.pc w) := by
  unfold fetchDecode decodeAt
  cases hf : fetch s with
  | error g =>
    obtain ⟨hl, rfl⟩ := fetch_error.mp hf
    simp [hl, eq_comm]
  | ok w =>
    have hw := fetch_ok.mp hf
    have hlt := (List.getElem?_eq_some_iff.mp hw).1
    have hnot : ¬ s.cfg.program.length ≤ s.pc := by omega
    cases hd : decode w <;> simp [hw, hd, hnot, eq_comm]

/-- Everything a step can do when it answers a next state. -/
theorem step_next {s s' : State} (h : step s = .next s') :
    cfgLegal s.cfg = true ∧ s.fault = none ∧ ∃ i, fetchDecode s = .ok i ∧ exec i s = .next s' := by
  unfold step at h
  split at h
  · next hl =>
    split at h
    · cases h
    · next hf =>
      split at h
      · cases h
      · next i hi => exact ⟨hl, hf, i, hi, h⟩
  · cases h

/-! ### The operation ROM -/

theorem romWith_length {rom : List OpWord} {i : Nat} (h : i < rom.length) (w : OpWord) : (romWith rom i w).length = rom.length := by
  simp [romWith]
  omega

/-- Placing an instruction at a word of the ROM keeps the ROM's form. (No operation of the block writes the ROM.) -/
theorem romWith_wf {c : Cfg} {i : Nat} (hi : i < c.program.length) (h : Memory.wf c) (w : OpWord) :
    Memory.wf { c with program := romWith c.program i w } := by
  have := romWith_length hi w
  simp only [Memory.wf] at *
  omega

/-- The placed word is the one fetched. -/
theorem romWith_get {rom : List OpWord} (i : Nat) (w : OpWord) : (romWith rom i w)[i]? = some w := by
  unfold romWith
  have hlen : (rom.take i ++ List.replicate (i - rom.length) (0 : OpWord)).length = i := by
    simp
    omega
  rw [List.getElem?_append_right (by omega), hlen]
  simp

/-- The ROM at reset has the form of R60. -/
theorem reset_rom_wf : Memory.wf State.reset.cfg := by decide

end Sys2Proof.Machine
end

