-- ==== Sys2Proof/Laws/Exec.lean ====
section
/-! SUPPORT. What any operation can do, once: its register writes, then its clock cycles, then pc (spec 20_memory.md R69). Later proofs
over all operations cite these and do not unfold the meanings. -/

namespace Sys2Proof.Machine

/-- Writing the timer's counters before an `advance` or after it is the same. -/
theorem advance_setTimer (n us sub : Nat) (s : State) :
    advance n (s.setTimer us sub) =
      match advance n s with
      | .ok s' => .ok (s'.setTimer us sub)
      | .error f => .error f := by
  cases hen : s.en
  · rw [advance_stopped hen, advance_stopped (by simpa using hen)]
    rfl
  · unfold advance
    simp only [State.setTimer_en, State.drive_setTimer, State.setTimer_cfg, State.setTimer_pc, hen, if_true]
    cases driveTicks s.cfg.wPeriod n s.drive <;> rfl

/-- Every operation is its register writes, then its clock cycles, then (DLY alone) the timer's counters at 0, then pc. -/
theorem exec_shape (i : Instr) (s : State) : ∃ t : Nat, exec i s =
    match instrWrites i s with
    | .error f => .fault f
    | .ok s₁ =>
      match advance (instrCycles i s.cfg) s₁ with
      | .error f => .fault f
      | .ok s₂ => .next ((match i with | .dly _ => s₂.setTimer 0 0 | _ => s₂).setPc t) := by
  cases i <;> exact ⟨_, rfl⟩

/-- Everything an operation can do when it answers a next state. -/
theorem exec_next {i : Instr} {s s' : State} (h : exec i s = .next s') :
    ∃ s₁ s₂ s₃, instrWrites i s = .ok s₁ ∧ advance (instrCycles i s.cfg) s₁ = .ok s₂ ∧
      (s₃ = s₂ ∨ (∃ imm, i = .dly imm) ∧ s₃ = s₂.setTimer 0 0) ∧ s' = s₃.setPc s'.pc := by
  obtain ⟨t, ht⟩ := exec_shape i s
  rw [ht] at h
  split at h
  · cases h
  · rename_i s₁ h₁
    split at h
    · cases h
    · rename_i s₂ h₂
      cases h
      refine ⟨s₁, s₂, _, h₁, h₂, ?_, rfl⟩
      cases i with
      | dly imm => exact .inr ⟨⟨imm, rfl⟩, rfl⟩
      | _ => exact .inl rfl

/-- The register writes of an operation change neither the configuration nor pc, T or FAULT. -/
theorem instrWrites_keeps {i : Instr} {s s₁ : State} (h : instrWrites i s = .ok s₁) :
    s₁.cfg = s.cfg ∧ s₁.pc = s.pc ∧ s₁.t = s.t ∧ s₁.fault = s.fault := by
  cases i with
  | ledd imm => simp only [instrWrites, leddWrites] at h; cases h; split <;> simp
  | leda imm => simp only [instrWrites, ledaWrites] at h; cases h; split <;> simp
  | dly imm => simp only [instrWrites, dlyWrites] at h; split at h <;> cases h; simp
  | cgen => simp only [instrWrites, cgenWrites] at h; split at h <;> cases h; simp
  | _ => cases h; simp

end Sys2Proof.Machine
end

