-- ==== Sys2Proof/Laws/PerInstr.lean ====
section
/-! SUPPORT. Statements about every instruction, one lemma per constructor. -/

namespace Sys2Proof.Laws.EncodeFields

/-- The word of an instruction has the instruction's operation code in bits 23:16 and its operand in bits 15:0 (spec
30_encoding.md R80). -/
def Statement (i : Instr) : Prop := opField (encode i) = opcode i ∧ immField (encode i) = operandOf i

/-- The two fields of a word are read back as they were written. -/
theorem fields_mkWord (op : OpCode) (imm : Operand) : opField (mkWord op imm) = op ∧ immField (mkWord op imm) = imm := by
  constructor
  · exact BitVec.extractLsb'_append_eq_left
  · exact BitVec.extractLsb'_append_eq_right

theorem pincfg : Statement .pincfg := fields_mkWord _ _
theorem pinidle : Statement .pinidle := fields_mkWord _ _
theorem ldper : Statement .ldper := fields_mkWord _ _
theorem cgstop : Statement .cgstop := fields_mkWord _ _
theorem cgen : Statement .cgen := fields_mkWord _ _
theorem iroff : Statement .iroff := fields_mkWord _ _
theorem dly (imm : Operand) : Statement (.dly imm) := fields_mkWord _ _
theorem incb : Statement .incb := fields_mkWord _ _
theorem leda (imm : Operand) : Statement (.leda imm) := fields_mkWord _ _
theorem ledd (imm : Operand) : Statement (.ledd imm) := fields_mkWord _ _
theorem loop (imm : Operand) : Statement (.loop imm) := fields_mkWord _ _

end Sys2Proof.Laws.EncodeFields
end

