-- ==== Sys2Proof/Laws/Run.lean ====
section
/-! SUPPORT. Runs of several steps, one step at a time. -/

namespace Sys2Proof.Machine

@[simp] theorem run_zero (s : State) : Host.Core.run Sys2Proof.core 0 s = .next s := rfl

/-- A run whose first step goes on is the rest of the run from there. -/
theorem run_step {s s' : State} (k : Nat) (h : step s = .next s') :
    Host.Core.run Sys2Proof.core (k + 1) s = Host.Core.run Sys2Proof.core k s' := by
  have h' : Sys2Proof.core.step s = .next s' := h
  simp only [Host.Core.run, h']

/-- Everything a run of `k + 1` steps can do when it answers a next state. -/
theorem run_next {s t : State} {k : Nat} (h : Host.Core.run Sys2Proof.core (k + 1) s = .next t) :
    ∃ s', step s = .next s' ∧ Host.Core.run Sys2Proof.core k s' = .next t := by
  simp only [Host.Core.run] at h
  split at h
  · next s' h' => exact ⟨s', h', h⟩
  · cases h
  · cases h

/-- With a fault recorded no clock cycle passes: the trace is empty. -/
theorem runTrace_recorded {s : State} {f : Fault} (n : Nat) (h : s.fault = some f) : runTrace n s = [] := by
  cases n with
  | zero => rfl
  | succ n => simp only [runTrace, h]

/-- The trace of a run whose first step goes on: the cycles of its operation, then those of the rest. -/
theorem runTrace_step {s s' : State} {i : Instr} (n : Nat) (hf : s.fault = none) (hd : fetchDecode s = .ok i) (h : step s = .next s') :
    runTrace (n + 1) s = opTrace i s ++ runTrace n s' := by
  simp only [runTrace, hf, hd, h]

end Sys2Proof.Machine
end

