-- ==== Sys2Proof/Tests/Slice0.lean ====
section
/-! SUPPORT. Tests of the model: words written out from the spec's encoding (30_encoding.md R82, 95_test_vectors.md V-ENC), one-step
vectors of 95_test_vectors.md (V-OP, V-SEQ, V-DLY, V-CG, V-F), and for every obligation with hypotheses a state that meets them. -/

namespace Sys2Proof.Tests

open Sys2Proof Sys2Proof.Machine

/-! ### Well-formedness and decoding -/

theorem test_wellFormed_refuses_wide_loop : ¬ WellFormed (.loop 32) := by decide
theorem test_wellFormed_accepts_loop_31 : WellFormed (.loop 31) := by decide

-- Words written out field by field: op = word[23:16], imm = word[15:0] (R80, R82).
theorem test_decode_pincfg : decode 0b000000010000000000000000 = .ok .pincfg := by decide
theorem test_decode_pinidle : decode 0b000000100000000000000000 = .ok .pinidle := by decide
theorem test_decode_ldper : decode 0b000000110000000000000000 = .ok .ldper := by decide
theorem test_decode_cgstop : decode 0b000001000000000000000000 = .ok .cgstop := by decide
theorem test_decode_cgen : decode 0b000001010000000000000000 = .ok .cgen := by decide
theorem test_decode_iroff : decode 0b000001100000000000000000 = .ok .iroff := by decide
theorem test_decode_dly_622 : decode 0b000001110000001001101110 = .ok (.dly 622) := by decide
theorem test_decode_incb : decode 0b000010000000000000000000 = .ok .incb := by decide
theorem test_decode_leda_2000 : decode 0b000010010000011111010000 = .ok (.leda 2000) := by decide
theorem test_decode_ledd_2005 : decode 0b000010100000011111010101 = .ok (.ledd 2005) := by decide
theorem test_decode_loop_31 : decode 0b000010110000000000011111 = .ok (.loop 31) := by decide

-- V-ENC22 to V-ENC30.
theorem test_decode_all_zero : decode 0x000000 = .error .undefinedOp := by decide
theorem test_decode_plain_operand : decode 0x010001 = .error .operandNotZero := by decide
theorem test_decode_cgen_operand : decode 0x058000 = .error .operandNotZero := by decide
theorem test_decode_loop_32 : decode 0x0B0020 = .error .loopTargetTooWide := by decide
theorem test_decode_loop_bit15 : decode 0x0B8004 = .error .loopTargetTooWide := by decide
theorem test_decode_first_undefined : decode 0x0C0000 = .error .undefinedOp := by decide
theorem test_decode_all_ones : decode 0xFFFFFF = .error .undefinedOp := by decide
theorem test_decodeTableWord : decodeTableWord 24 0x0704AB = some (.dly 1195) := by decide

/-! ### One step -/

/-- Whether an outcome is a next state of which `p` holds. -/
def after (o : Host.Outcome State Fault Refusal) (p : State → Bool) : Bool :=
  match o with
  | .next s => p s
  | .fault _ => false
  | .refused _ => false

/-- Whether an outcome is the fault `f`. -/
def faults (o : Host.Outcome State Fault Refusal) (f : Fault) : Bool :=
  match o with
  | .fault g => decide (g = f)
  | .next _ => false
  | .refused _ => false

/-- A state in RUNNING with the carrier enabled, PERIOD 104, CNT = c and IR = v. -/
def enabled (c : Nat) (v : Bit) : State :=
  { State.reset with
    pc := 7, en := true, period := some 104, cnt := some c, flag := some false, dirLed := some true, dirIr := some true,
    vled := some true, ir := some v }

/-- The same with the carrier stopped. -/
def stopped (v : Bit) : State := { enabled 41 v with en := false }

/-- A state with another OVH. -/
def withOvh (n : Nat) (s : State) : State := { s with cfg := { s.cfg with ovh := n } }

-- V-SEQ1, V-SEQ2.
theorem test_pincfg : after (exec .pincfg State.reset) (fun s => s.dirLed = some true ∧ s.dirIr = some true ∧ s.vled = none ∧ s.pc = 1) := by
  decide
theorem test_pinidle : after (exec .pinidle State.reset) (fun s => s.vled = some true ∧ s.ir = some true ∧ s.dirIr = none) := by decide
-- V-OP1, V-OP2.
theorem test_ldper : after (exec .ldper State.reset) (fun s => s.period = some 104 ∧ s.cnt = none ∧ s.pc = 1) := by decide
-- V-OP3 with OVH = 1, V-OP9, V-OP8.
theorem test_cgen_ovh1 : after (exec .cgen (withOvh 1 (stopped true))) (fun s => s.en ∧ s.cnt = some 1 ∧ s.flag = some false ∧ s.t = 1) := by decide
theorem test_cgen_uninit : faults (step (State.reset.withFetchWord 24 0x050000)) (.uninit 0 .period) := by decide +kernel
-- V-OP5: CGSTOP leaves the asserted level, IROFF restores it.
theorem test_cgstop : after (exec .cgstop (enabled 41 false)) (fun s => !s.en ∧ s.ir = some false ∧ s.cnt = some 41) := by decide
theorem test_iroff : after (exec .iroff (stopped false)) (fun s => !s.en ∧ s.ir = some true ∧ s.cnt = some 41) := by decide
-- P5, reversed order: IROFF's own cycle toggles the pin back to 0.
theorem test_iroff_not_final : after (exec .iroff (withOvh 1 (enabled 104 false))) (fun s => s.en ∧ s.ir = some false ∧ s.cnt = some 0) := by decide
-- V-TX6 (DLY 14: one toggle, CNT = 7), V-DLY5.
theorem test_dly_toggles : after (exec (.dly 14) (enabled 0 true)) (fun s => s.ir = some false ∧ s.cnt = some 7 ∧ s.flag = some true ∧ s.t = 112) := by
  decide +kernel
theorem test_dly_longest : after (exec (.dly 65535) State.reset) (fun s => s.t = 524280 ∧ s.dlyUs = 0 ∧ s.pc = 1) := by decide +kernel
-- V-SEQ11, V-SEQ10.
theorem test_incb_wraps : after (exec .incb { State.reset with blink := 65535 }) (fun s => s.blink = 0) := by decide
theorem test_incb : after (exec .incb { State.reset with blink := 1999 }) (fun s => s.blink = 2000) := by decide
-- V-SEQ4, V-SEQ5.
theorem test_leda_hit : after (exec (.leda 2000) { stopped true with blink := 2000 }) (fun s => s.vled = some false ∧ s.blink = 2000) := by decide
theorem test_leda_miss : after (exec (.leda 2000) { stopped true with blink := 2001 }) (fun s => s.vled = some true) := by decide
-- V-SEQ7, V-SEQ6.
theorem test_ledd_hit : after (exec (.ledd 2005) { stopped true with blink := 2005, vled := some false }) (fun s => s.vled = some true ∧ s.blink = 0) := by decide
theorem test_ledd_miss : after (exec (.ledd 2005) { stopped true with blink := 2004, vled := some false }) (fun s => s.vled = some false ∧ s.blink = 2004) := by decide
-- V-SEQ12; V-F5: the target is checked by the next fetch, not by LOOP.
theorem test_loop : after (exec (.loop 4) { stopped true with pc := 22 }) (fun s => s.pc = 4 ∧ s.t = 0) := by decide
theorem test_loop_beyond_rom : after (exec (.loop 31) State.reset) (fun s => s.pc = 31 ∧ faults (step s) (.pcRange 31)) := by decide +kernel
-- V-F2, V-F8, V-F6.
theorem test_illegal_word : faults (step (State.reset.withFetchWord 24 0)) (.illegalOp 0 0) := by decide +kernel
theorem test_dly_zero : faults (step (State.reset.withFetchWord 24 0x070000)) (.dlyZero 0) := by decide +kernel
theorem test_empty_rom_refused : step (State.resetWith { cfg0 with program := [] }) = .refused .cfgRefused := rfl
-- V-PER7: PERVAL 262 does not fit 8 bits.
theorem test_period_too_wide : cfgLegal { cfg0 with fClk := 20000000 } = false := by decide
-- V-CG21 to V-CG24: CNT above PERIOD wraps through 0 without a toggle.
theorem test_cnt_above_period : advance 161 (enabled 200 true) = .ok { enabled 200 true with cnt := some 0, ir := some false, flag := some true, t := 161 } := by
  decide +kernel
-- V-F4: 104 cycles pass before the toggle reads IR.
theorem test_uninit_ir : advance 105 { enabled 0 true with ir := none } = .error (.uninit 7 .ir) ∧ cyclesDone 105 { enabled 0 true with ir := none } = 104 := by
  decide +kernel
-- R90, R93: the text of a line.
theorem test_parse_line : parseLine ['r', ':', ' ', 'D', 'L', 'Y', ' ', '0', 'x', '2', '6', 'E', ' ', ';', 'x'] = some ⟨some ['r'], some (.op (.dly 622))⟩ := by decide
theorem test_parse_tx : parseLine ['T', 'X', ' ', '6', '2', '2', ',', ' ', '1', '1', '9', '5'] = some ⟨none, some (.tx 622 1195)⟩ := by decide
-- U12, U13: an undriven pin and a driven one without a level.
theorem test_pins_at_reset : pins State.reset = (.notDriven, .notDriven) := by decide
theorem test_pins_before_pinidle : after (exec .pincfg State.reset) (fun s => pins s = (.undetermined, .undetermined)) := by decide

/-! ### Witnesses: every hypothesis of an obligation can be met -/

theorem fits_of {s : State} {p c : Nat} (hp : s.period = some p) (hc : s.cnt = some c) (h : p < 2 ^ s.cfg.wPeriod ∧ c < 2 ^ s.cfg.wPeriod) : CarrierFits s :=
  ⟨by simp [hp, h.1], by simp [hc, h.2]⟩

theorem runs_of {s : State} {p c : Nat} (n : Nat) (hp : s.period = some p) (hc : s.cnt = some c) (hi : s.ir ≠ none) : CarrierRuns n s :=
  .inr (.inr ⟨c, hc, p, hp, .inl hi⟩)

/-- An enabled carrier one cycle before a toggle, with OVH = 1: the hypotheses of the operations' statements. -/
def busy : State := withOvh 1 (enabled 104 true)

theorem busy_fits : CarrierFits busy := fits_of (p := 104) (c := 104) rfl rfl (by decide)
theorem busy_runs : CarrierRuns busy.cfg.ovh busy := runs_of _ (p := 104) (c := 104) rfl rfl (by decide)

theorem cfg0_legal : LegalCfg cfg0 := by constructor <;> decide

theorem witness_EncodedInstrDecodesToItself : WellFormed (.loop 31) ∧ WellFormed (.dly 65535) := by decide
theorem witness_DecodedWordIsItsEncoding : decode 0x0B001F = .ok (.loop 31) := by decide
theorem witness_TableRowSelectsItsWords : (⟨0x0B, 0x0B0000, 0xFFFFE0⟩ : OpRow) ∈ opTable := by decide
theorem witness_IllegalWordsFaultWhenFetched :
    cfgLegal (State.reset.withFetchWord 24 0x0B0020).cfg = true ∧ (State.reset.withFetchWord 24 0x0B0020).fault = none ∧
      (State.reset.withFetchWord 24 0x0B0020).cfg.program[0]? = some 0x0B0020 ∧ ∃ e, decode 0x0B0020 = .error e :=
  ⟨by decide, rfl, rfl, _, rfl⟩
theorem witness_StepRunsDecodedInstr :
    cfgLegal State.reset.cfg = true ∧ State.reset.fault = none ∧ State.reset.cfg.program[State.reset.pc]? = some 0x010000 ∧
      decode 0x010000 = .ok .pincfg := by decide
theorem witness_PlacedWordRunsNext :
    cfgLegal State.reset.cfg = true ∧ State.reset.pc < State.reset.cfg.program.length ∧ decodeTableWord 24 0x0B0004 = some (.loop 4) := by decide
/-- pc at LEN, the first index that does not exist. -/
theorem witness_FetchBeyondRomFaults_fetch :
    cfgLegal { State.reset with pc := 23 }.cfg = true ∧ { State.reset with pc := 23 }.fault = none ∧
      { State.reset with pc := 23 }.cfg.program.length ≤ 23 := by decide
theorem witness_FetchBeyondRomFaults_fall :
    after (step (State.withFetchWord { State.reset with pc := 22 } 24 0x080000)) (fun s => s.cfg.program.length ≤ s.pc) := by decide
theorem witness_FetchBeyondRomFaults_loop :
    after (step (State.withFetchWord { State.reset with pc := 22 } 24 0x0B0017)) (fun s => s.cfg.program.length ≤ s.pc) := by decide
theorem witness_RecordedFaultStops_recorded :
    cfgLegal State.reset.cfg = true ∧ { State.reset with fault := some (.dlyZero 0) }.fault = some (.dlyZero 0) := by decide
theorem witness_RecordedFaultStops_next : ∃ s', step State.reset = .next s' := ⟨_, rfl⟩
theorem witness_RecordedFaultStops_fault :
    step (State.reset.withFetchWord 24 0) = .fault (.illegalOp 0 0) ∧ (State.reset.withFetchWord 24 0).fault = none := ⟨rfl, rfl⟩
theorem witness_FaultChecksAreOrdered_fetch : step { State.reset with pc := 23 } = .fault (.pcRange 23) := rfl
theorem witness_FaultChecksAreOrdered_decode : step (State.reset.withFetchWord 24 0x0C0000) = .fault (.illegalOp 0 0x0C0000) := rfl
theorem witness_FaultChecksAreOrdered_operand : step (State.reset.withFetchWord 24 0x070000) = .fault (.dlyZero 0) := rfl
theorem witness_FaultChecksAreOrdered_execution : step (State.reset.withFetchWord 24 0x050000) = .fault (.uninit 0 .period) := rfl
/-- CNT at PERIOD, the boundary of the first clause. -/
theorem witness_AdvanceHasClosedForm_upTo :
    (enabled 104 true).en = true ∧ (enabled 104 true).period = some 104 ∧ (enabled 104 true).cnt = some 104 ∧ (enabled 104 true).ir = some true ∧
      104 ≤ 104 ∧ 104 < 2 ^ (enabled 104 true).cfg.wPeriod := by decide
theorem witness_AdvanceHasClosedForm_stopped : (stopped true).en = false := rfl
/-- CNT one above PERIOD, the boundary of the last clause, and the last count without a toggle. -/
theorem witness_AdvanceHasClosedForm_above :
    (enabled 105 true).en = true ∧ (enabled 105 true).period = some 104 ∧ (enabled 105 true).cnt = some 105 ∧ (enabled 105 true).ir = some true ∧
      104 < 105 ∧ 105 < 2 ^ (enabled 105 true).cfg.wPeriod ∧ 255 < 2 ^ (enabled 105 true).cfg.wPeriod - 105 + 104 + 1 := by decide
theorem witness_AdvanceFaultsOnlyOnMissingValues_runs : CarrierFits busy ∧ CarrierRuns 1 busy :=
  ⟨busy_fits, runs_of 1 (p := 104) (c := 104) rfl rfl (by decide)⟩
/-- IR has no value: 104 cycles from CNT = 0 do not read it, the 105th does. -/
theorem witness_AdvanceFaultsOnlyOnMissingValues_ir :
    CarrierRuns 104 { enabled 0 true with ir := none } ∧ ¬ CarrierRuns 105 { enabled 0 true with ir := none } := by
  simp [CarrierRuns, enabled, firstToggle]
theorem witness_AdvanceFaultsOnlyOnMissingValues_cnt :
    CarrierFits { enabled 0 true with cnt := none } ∧ ¬ CarrierRuns 1 { enabled 0 true with cnt := none } := by
  simp [CarrierRuns, CarrierFits, enabled, State.reset, State.resetWith, cfg0]
theorem witness_AdvanceFaultsOnlyOnMissingValues_period :
    CarrierFits { enabled 0 true with period := none } ∧ ¬ CarrierRuns 1 { enabled 0 true with period := none } := by
  simp [CarrierRuns, CarrierFits, enabled]
theorem witness_OnWindowTraceIsSquareWave : (enabled 104 true).dirIr = some true ∧ (enabled 104 true).en = true ∧
    (enabled 104 true).period = some 104 ∧ (enabled 104 true).cnt = some 104 ∧ (enabled 104 true).ir = some true ∧ 104 < 2 ^ (enabled 104 true).cfg.wPeriod := by decide
/-- V-PER8, V-PER7, V-PER11. -/
theorem witness_PeriodValueTruncatesAlike : 1 ≤ 38000 / 38000 ∧
    2 ^ 8 ≤ perval { cfg0 with fClk := 20000000 } ∧ { cfg0 with fClk := 30000 }.fClk / 38000 = 0 := by decide
theorem witness_PincfgMakesBothPinsOutputs : CarrierFits busy ∧ CarrierRuns busy.cfg.ovh busy := ⟨busy_fits, busy_runs⟩
theorem witness_PinidlePutsBothPinsInactive : CarrierFits busy ∧ CarrierRuns busy.cfg.ovh { busy with vled := some true, ir := some true } :=
  ⟨busy_fits, runs_of _ (p := 104) (c := 104) rfl rfl (by decide)⟩
theorem witness_LdperStoresPeriodValue : LegalCfg busy.cfg ∧ CarrierFits busy ∧
    CarrierRuns busy.cfg.ovh { busy with period := some ((busy.cfg.fClk / busy.cfg.fTarget - 1) / 2) } :=
  ⟨by constructor <;> decide, busy_fits, runs_of _ (p := 104) (c := 104) rfl rfl (by decide)⟩
theorem witness_CgenEnablesFromCleanPhase : busy.period = some 104 ∧ 104 < 2 ^ busy.cfg.wPeriod ∧
    CarrierRuns busy.cfg.ovh { busy with cnt := some 0, flag := some false, en := true } ∧ State.reset.period = none :=
  ⟨rfl, by decide, runs_of _ (p := 104) (c := 0) rfl rfl (by decide), rfl⟩
theorem witness_IroffForcesThePinInactive : CarrierFits busy ∧ CarrierRuns busy.cfg.ovh { busy with ir := some true } :=
  ⟨busy_fits, runs_of _ (p := 104) (c := 104) rfl rfl (by decide)⟩
theorem witness_DlyLetsExactlyItsCyclesPass : (65535 : Operand) ≠ 0 ∧ CarrierFits busy ∧ CarrierRuns ((65535 : Operand).toNat * busy.cfg.k) busy :=
  ⟨by decide, busy_fits, runs_of _ (p := 104) (c := 104) rfl rfl (by decide)⟩
/-- DLY 14 from CNT = 0 reads IR on its 105th cycle, DLY 13 ends one cycle before. -/
theorem witness_DlyLetsExactlyItsCyclesPass_uninit : CarrierFits { enabled 0 true with ir := none } ∧
    ¬ CarrierRuns ((14 : Operand).toNat * 8) { enabled 0 true with ir := none } ∧ CarrierRuns ((13 : Operand).toNat * 8) { enabled 0 true with ir := none } := by
  simp [CarrierRuns, CarrierFits, enabled, State.reset, State.resetWith, cfg0, firstToggle]
/-- DLY 2 with K = 8: after 15 cycles the counters stand at (1, 7). -/
theorem witness_TimerGrainsAgree : 1 ≤ busy.cfg.k ∧ (2 : Operand) ≠ 0 ∧ 15 < (2 : Operand).toNat * busy.cfg.k ∧
    timerLoop 15 (State.setTimer (stopped true) 2 0) = .ok { stopped true with dlyUs := 1, dlySub := 7, t := 15 } := by decide +kernel
theorem witness_IncbCountsModuloWidth : CarrierFits busy ∧ CarrierRuns busy.cfg.ovh busy := ⟨busy_fits, busy_runs⟩
theorem witness_LedaLightsOnEquality : CarrierFits busy ∧ CarrierRuns busy.cfg.ovh busy ∧ busy.blink = (0 : Operand).toNat ∧ busy.blink ≠ (1 : Operand).toNat :=
  ⟨busy_fits, busy_runs, by decide, by decide⟩
theorem witness_LeddRestartsOnEquality : CarrierFits busy ∧ CarrierRuns busy.cfg.ovh busy ∧ busy.blink = (0 : Operand).toNat ∧ busy.blink ≠ (65535 : Operand).toNat :=
  ⟨busy_fits, busy_runs, by decide, by decide⟩
/-- LOOP 23, the first target that is no word of the reference ROM. -/
theorem witness_LoopJumpsToItsTarget : CarrierFits busy ∧ CarrierRuns busy.cfg.ovh busy ∧ cfgLegal busy.cfg = true ∧ busy.fault = none ∧
    busy.cfg.program.length ≤ (23 : Operand).toNat % 32 := ⟨busy_fits, busy_runs, by decide +kernel, rfl, by decide⟩
theorem witness_OperationsTakeTheirCycles : (∃ s', exec (.dly 1) (stopped true) = .next s') ∧ (∃ s', exec .incb busy = .next s') ∧
    ∃ s', step State.reset = .next s' := ⟨⟨_, rfl⟩, ⟨_, rfl⟩, _, rfl⟩
theorem witness_OperationsFaultOnlyWhereListed : CarrierFits State.reset ∧ (∃ f, exec .cgen State.reset = .fault f) :=
  ⟨by simp [CarrierFits, State.reset, State.resetWith], _, rfl⟩
theorem witness_OnlyLoopTransfersControl : (∃ s', exec (.loop 31) busy = .next s') ∧ ∃ s', exec .cgstop busy = .next s' := ⟨⟨_, rfl⟩, _, rfl⟩
theorem witness_RomIsNeverWritten : ∃ s', Host.Core.run Sys2Proof.core 1 State.reset = .next s' := ⟨_, rfl⟩
theorem witness_OnlyTheCarrierOperationsWriteItsRegisters : (∃ s', exec .incb busy = .next s') ∧ (∃ s', exec .iroff busy = .next s') ∧
    ∃ s', exec .cgen busy = .next s' := ⟨⟨_, rfl⟩, ⟨_, rfl⟩, _, rfl⟩
theorem witness_SequencerRegistersHaveOneWriter : (∃ s', exec .cgen busy = .next s') ∧ busy.dirLed = some true ∧ busy.dirIr = some true :=
  ⟨⟨_, rfl⟩, rfl, rfl⟩
theorem witness_DisableAlwaysSilences : Silent (stopped true) ∧ ∃ s', exec .incb (stopped true) = .next s' := ⟨⟨rfl, rfl⟩, _, rfl⟩
theorem witness_ReversedDisableCanLeaveEmitterOn : 1 ≤ 1 ∧ 255 ≤ 255 := by decide
/-- The first TX of the reference ROM, from the state STARTUP leaves. -/
def beforeTx : State := { stopped true with pc := 6, cnt := none, flag := none }
theorem romHolds_tx : RomHolds beforeTx beforeTx.pc (txExpansion 622 1195) := by
  have h : ∀ j, ∀ h : j < (txExpansion 622 1195).length,
      beforeTx.cfg.program[beforeTx.pc + j]? = some (encode ((txExpansion 622 1195)[j]'h)) := by decide
  exact h
theorem witness_TxHasItsNetEffect : cfgLegal beforeTx.cfg = true ∧ beforeTx.fault = none ∧ RomHolds beforeTx beforeTx.pc (txExpansion 622 1195) ∧
    beforeTx.period = some 104 ∧ 104 < 2 ^ beforeTx.cfg.wPeriod ∧ beforeTx.ir = some true ∧ (622 : Operand) ≠ 0 ∧ (1195 : Operand) ≠ 0 := by
  refine ⟨by decide, rfl, ?_, rfl, by decide, rfl, by decide, by decide⟩
  exact romHolds_tx
theorem witness_TxForgetsTheCarrierBefore : cfgLegal beforeTx.cfg = true ∧ beforeTx.fault = none ∧ RomHolds beforeTx beforeTx.pc (txExpansion 622 1195) ∧
    beforeTx.period = some 104 ∧ 104 < 2 ^ beforeTx.cfg.wPeriod ∧ beforeTx.ir = some true ∧ (622 : Operand) ≠ 0 ∧ (1195 : Operand) ≠ 0 :=
  witness_TxHasItsNetEffect
theorem witness_SequencerIsBlindToThePhase : (∃ a, step { beforeTx with pc := 4 } = .next a) ∧
    ∃ b, step { beforeTx with pc := 4, cnt := some 7, flag := some true, ir := some false, t := 9, cfg := { beforeTx.cfg with k := 3, ovh := 2 } } = .next b :=
  ⟨⟨_, rfl⟩, _, rfl⟩
theorem witness_EveryStepKeepsTheWidths : WidthsHold beforeTx ∧ ∃ s', step beforeTx = .next s' :=
  ⟨⟨⟨by simp [beforeTx, stopped, enabled, State.reset, State.resetWith, cfg0], by simp [beforeTx]⟩, by decide, by decide, by decide, by decide⟩, _, rfl⟩
theorem witness_EveryStepKeepsTheCarrierLoaded : CarrierLoaded { busy with pc := 8 } ∧ ∃ s', step { busy with pc := 8 } = .next s' :=
  ⟨fun _ => ⟨by decide, by decide⟩, _, rfl⟩
theorem witness_EveryStepKeepsTheTimerIdle : TimerIdle beforeTx ∧ ∃ s', step beforeTx = .next s' := ⟨⟨rfl, rfl⟩, _, rfl⟩
/-- The head of the iteration in which LEDD will have restarted the counter: BLINK = 2004, the LED lit. -/
def lastHead : State := { stopped true with pc := 4, blink := 2004, vled := some false }
theorem lastHead_inv : BeaconInv lastHead := by
  constructor <;>
    simp [lastHead, stopped, enabled, State.reset, State.resetWith, TimerIdle, carrierOnAt, iroffAt, countedAt, ledShouldBeLit, active, inactive] <;>
    first | rfl | decide
theorem witness_BeaconNeverFaultsAndKeepsItsInvariant : BeaconInv lastHead := lastHead_inv
theorem witness_BeaconNeverReturnsToStartup : BeaconInv lastHead ∧ lastHead.mode = .running ∧ ∃ s', step lastHead = .next s' :=
  ⟨lastHead_inv, rfl, _, rfl⟩
theorem witness_BeaconPinPattern : BeaconInv lastHead ∧ lastHead.cfg = cfg0 ∧ lastHead.pc = 4 := ⟨lastHead_inv, rfl, rfl⟩
theorem witness_BeaconIterationsKeepTimeAndCount : BeaconInv lastHead ∧ lastHead.pc = 4 := ⟨lastHead_inv, rfl⟩

end Sys2Proof.Tests
end

