-- ==== Sys2Proof/Proofs/Scope.lean ====
section
/-! PROOF. When a step refuses (spec 00_scope.md R9): the legality check decides the ten conditions, no operation refuses, and so a step
refuses exactly where the check fails. -/

namespace Sys2Proof.Proofs

open Sys2Proof Sys2Proof.Machine

/-! ### The legality check decides the conditions of R9 -/

@[simp] theorem timeLegal_iff {n : Nat} : timeLegal n = true ↔ 1 ≤ n ∧ n ≤ 65535 := by simp [timeLegal]

@[simp] theorem pairLegal_iff {p : OnOff} :
    pairLegal p = true ↔ (1 ≤ p.on ∧ p.on ≤ 65535) ∧ (1 ≤ p.off ∧ p.off ≤ 65535) := by simp [pairLegal]

/-- The three pattern pairs checked one by one, as the model does, and as a list, as `LegalCfg` does. -/
theorem forall_mem_three {P : OnOff → Prop} {a b c : OnOff} : (∀ p ∈ [a, b, c], P p) ↔ P a ∧ P b ∧ P c := by simp

/-- The Boolean check of the model and the conditions as R9 lists them. -/
theorem cfgLegal_iff {c : Cfg} : cfgLegal c = true ↔ LegalCfg c := by
  simp only [cfgLegal, Bool.and_eq_true, decide_eq_true_eq, pairLegal_iff]
  constructor
  · rintro ⟨⟨⟨⟨⟨⟨⟨⟨⟨⟨⟨clock, target⟩, ratio⟩, period⟩, calibration⟩, blink⟩, ledOn⟩, first⟩, second⟩, third⟩, romLength⟩, head⟩
    exact ⟨clock, target, ratio, period, calibration, blink, ledOn, forall_mem_three.mpr ⟨first, second, third⟩, romLength, head⟩
  · rintro ⟨clock, target, ratio, period, calibration, blink, ledOn, times, romLength, head⟩
    obtain ⟨first, second, third⟩ := forall_mem_three.mp times
    exact ⟨⟨⟨⟨⟨⟨⟨⟨⟨⟨⟨clock, target⟩, ratio⟩, period⟩, calibration⟩, blink⟩, ledOn⟩, first⟩, second⟩, third⟩, romLength⟩, head⟩

/-! ### Who refuses -/

/-- Every operation answers a next state or a fault: its writes, then its cycles, and neither refuses. -/
theorem exec_ne_refused (i : Instr) (s : State) (r : Refusal) : exec i s ≠ .refused r := by
  obtain ⟨t, ht⟩ := exec_shape i s
  rw [ht]
  cases instrWrites i s with
  | error f => nofun
  | ok s₁ =>
    dsimp only
    cases advance (instrCycles i s.cfg) s₁ with
    | error f => nofun
    | ok s₂ => nofun

/-- Under a legal configuration a step goes on or faults. -/
theorem step_ne_refused {s : State} (hl : cfgLegal s.cfg = true) (r : Refusal) : step s ≠ .refused r := by
  unfold step
  rw [if_pos hl]
  split
  · nofun
  · split
    · nofun
    · exact exec_ne_refused _ s r

/-- Under any other configuration a step is refused, whatever the rest of the state holds. -/
theorem step_of_not_cfgLegal {s : State} (hl : ¬ cfgLegal s.cfg = true) : step s = .refused .cfgRefused := if_neg hl

/-- Settles O9: the step refuses where the legality check fails, and the check decides the conditions of R9. -/
theorem illegalConfigurationRefused : Obligations.IllegalConfigurationRefused := by
  intro s
  rw [← cfgLegal_iff]
  exact ⟨fun hr hl => step_ne_refused hl _ hr, step_of_not_cfgLegal⟩

end Sys2Proof.Proofs
end

