-- ==== Sys2Proof/Proofs/Startup.lean ====
section
/-! PROOF. From reset through STARTUP (spec 10_state.md R45, R46): the values reset leaves, and the state in which the four operations
of STARTUP end, under every legal configuration whose ROM begins with them. -/

namespace Sys2Proof.Proofs

open Sys2Proof Sys2Proof.Machine

/-! ### MODE, read from pc (R23) -/

theorem mode_eq_startup_iff {s : State} : s.mode = .startup ↔ s.pc < s.cfg.runHead := by simp [State.mode]

theorem mode_eq_running_iff {s : State} : s.mode = .running ↔ s.cfg.runHead ≤ s.pc := by simp [State.mode]

/-! ### One step whose word is known -/

/-- A step that is neither refused nor stopped by a recorded fault is the operation it fetches (R187). -/
theorem step_eq_exec {s : State} {i : Instr} (hl : cfgLegal s.cfg = true) (hf : s.fault = none) (hd : fetchDecode s = .ok i) :
    step s = exec i s := by
  simp only [step, hl, hf, hd, if_true]

/-- The step fetches instruction `j` of a sequence that the ROM holds from word `i` on. -/
theorem fetchDecode_of_romHolds {s : State} {i j : Nat} {is : List Instr} (hrom : RomHolds s i is) (hpc : s.pc = i + j)
    (hj : j < is.length) (hd : decode (encode is[j]) = .ok is[j]) : fetchDecode s = .ok is[j] :=
  fetchDecode_ok.mpr ⟨encode is[j], hpc ▸ hrom j hj, hd⟩

/-- With EN = 0 after the register writes, the operation's cycles change only T (R69, R119). -/
theorem finish_stopped {s : State} (h : s.en = false) (cycles target : Nat) :
    finish cycles target (.ok s) = .next ((s.addTime cycles).setPc target) := by
  simp only [finish, advance_stopped h]

/-! ### STARTUP -/

/-- The four operations of STARTUP, words 0 to 3 of the reference ROM (R170). -/
def startupInstrs : List Instr := [.pincfg, .pinidle, .ldper, .cgstop]

theorem decode_encode_startup : ∀ i ∈ startupInstrs, decode (encode i) = .ok i := by decide

/-- Each of them is its register writes, then OVH clock cycles, then `pc + 1` (R69). -/
theorem exec_startup {i : Instr} (hi : i ∈ startupInstrs) (s : State) :
    exec i s = finish s.cfg.ovh (s.pc + 1) (instrWrites i s) := by
  simp only [startupInstrs, List.mem_cons, List.not_mem_nil, or_false] at hi
  rcases hi with rfl | rfl | rfl | rfl <;> rfl

/-- The end of such an operation with the generator stopped: OVH clock cycles have passed and pc is the next word. -/
def opDone (s : State) : State := (s.addTime s.cfg.ovh).setPc (s.pc + 1)

/-- A step at a word of STARTUP whose writes give `s₁` with EN = 0. -/
theorem step_startup {s s₁ : State} (hl : cfgLegal s.cfg = true) (hrom : RomHolds s 0 startupInstrs) (hf : s.fault = none)
    (hpc : s.pc < startupInstrs.length) (hw : instrWrites startupInstrs[s.pc] s = .ok s₁) (hen : s₁.en = false) :
    step s = .next (opDone s₁) := by
  have hi : startupInstrs[s.pc] ∈ startupInstrs := List.getElem_mem hpc
  have hd : fetchDecode s = .ok startupInstrs[s.pc] :=
    fetchDecode_of_romHolds hrom (Nat.zero_add _).symm hpc (decode_encode_startup _ hi)
  obtain ⟨hcfg, hpc₁, -, -⟩ := instrWrites_keeps hw
  rw [step_eq_exec hl hf hd, exec_startup hi, hw, finish_stopped hen, opDone, hcfg, hpc₁]

/-- The state before word 1: reset with the writes of PINCFG (R150). -/
def afterPincfg (c : Cfg) : State := opDone ((State.resetWith c).setDirs true true)

/-- The state before word 2: the one before word 1 with the writes of PINIDLE (R151). -/
def afterPinidle (c : Cfg) : State := opDone (((afterPincfg c).setVled inactive).setIr inactive)

/-- The state before word 3: the one before word 2 with the write of LDPER (R111). -/
def afterLdper (c : Cfg) : State := opDone ((afterPinidle c).setPeriod (perval c))

/-- The table of R46 under configuration `c`: reset with the writes of STARTUP and the time of its four operations. -/
def startupDone (c : Cfg) : State :=
  { State.resetWith c with
    pc := 4, period := some (perval c), dirLed := some true, dirIr := some true, vled := some inactive, ir := some inactive,
    t := 4 * c.ovh }

/-- CGSTOP ends STARTUP: EN was 0 already, and PERVAL fits PERIOD under a legal configuration (R113, R9). -/
theorem startupDone_eq {c : Cfg} (hl : cfgLegal c = true) : opDone ((afterLdper c).setEn false) = startupDone c := by
  have hperiod : perval c % 2 ^ c.wPeriod = perval c := Nat.mod_eq_of_lt (cfgLegal_iff.mp hl).period
  have htime : 0 + c.ovh + c.ovh + c.ovh + c.ovh = 4 * c.ovh := by omega
  simp only [startupDone, afterLdper, afterPinidle, afterPincfg, opDone, State.resetWith, State.setDirs, State.setVled, State.setIr,
    State.setPeriod, State.setEn, State.addTime, State.setPc, hperiod, htime]

/-- From reset the four operations of STARTUP complete, under any legal configuration whose ROM begins with them. -/
theorem run_startup {c : Cfg} (hl : cfgLegal c = true) (hrom : RomHolds (State.resetWith c) 0 startupInstrs) :
    Host.Core.run Sys2Proof.core 4 (State.resetWith c) = .next (startupDone c) := by
  have hpincfg : step (State.resetWith c) = .next (afterPincfg c) :=
    step_startup (s := State.resetWith c) hl hrom rfl (by decide : 0 < 4) rfl rfl
  have hpinidle : step (afterPincfg c) = .next (afterPinidle c) :=
    step_startup (s := afterPincfg c) hl hrom rfl (by decide : 1 < 4) rfl rfl
  have hldper : step (afterPinidle c) = .next (afterLdper c) :=
    step_startup (s := afterPinidle c) hl hrom rfl (by decide : 2 < 4) rfl rfl
  have hcgstop : step (afterLdper c) = .next (startupDone c) :=
    startupDone_eq hl ▸ step_startup (s := afterLdper c) hl hrom rfl (by decide : 3 < 4) rfl rfl
  rw [run_step 3 hpincfg, run_step 2 hpinidle, run_step 1 hldper, run_step 0 hcgstop, run_zero]

/-- The reference ROM begins with STARTUP. -/
theorem referenceProgram_holds_startup {s : State} (h : s.cfg.program = referenceProgram) : RomHolds s 0 startupInstrs := by
  have hwords : ∀ j, ∀ hj : j < startupInstrs.length, referenceProgram[0 + j]? = some (encode startupInstrs[j]) := by decide
  intro j hj
  rw [h]
  exact hwords j hj

/-- OVH is no condition of R9. -/
theorem cfg0_withOvh_legal (ovh : Nat) : cfgLegal { cfg0 with ovh := ovh } = true := by
  have h : cfgLegal cfg0 = true := by decide
  exact h

theorem perval_cfg0 : perval cfg0 = 104 := by decide

/-! ### The statements -/

/-- Settles O41: `startupDone` at the reference configuration with any OVH. -/
theorem startupEndsInItsListedState : Obligations.StartupEndsInItsListedState := by
  intro ovh
  exact ⟨startupDone { cfg0 with ovh := ovh }, run_startup (cfg0_withOvh_legal ovh) (referenceProgram_holds_startup rfl),
    rfl, mode_eq_running_iff.mpr (Nat.le_refl 4), rfl, rfl, rfl, rfl, congrArg some perval_cfg0, rfl, rfl, rfl, rfl, rfl, rfl, rfl, rfl⟩

/-- Settles O40: the fields of the reset state, and MODE from pc = 0 below RUN_HEAD. -/
theorem resetLeavesTheListedValues : Obligations.ResetLeavesTheListedValues :=
  ⟨rfl, mode_eq_startup_iff.mpr (by decide), rfl, rfl, rfl, rfl, rfl, rfl, rfl, rfl, rfl, rfl, rfl, rfl, rfl⟩

end Sys2Proof.Proofs
end

