-- ==== Sys2Proof/Proofs/Memory.lean ====
section
/-! PROOF. The operation ROM is read-only (spec 20_memory.md R63, R73): no part of an operation writes the configuration, which holds
the ROM, and so no run does. -/

namespace Sys2Proof.Proofs

open Sys2Proof Sys2Proof.Machine

/-! ### What every step keeps, every run keeps -/

/-- A property of the state that every step keeps holds wherever a run from a state with it arrives. -/
theorem run_keeps {P : State → Prop} (hstep : ∀ {s s' : State}, step s = .next s' → P s → P s') {k : Nat} {s t : State}
    (hrun : Host.Core.run Sys2Proof.core k s = .next t) (hs : P s) : P t := by
  induction k generalizing s with
  | zero => cases hrun; exact hs
  | succ k ih =>
    obtain ⟨s', hfirst, hrest⟩ := run_next hrun
    exact ih hrest (hstep hfirst hs)

/-! ### The configuration -/

/-- The passage of time writes the generator's registers and T alone (R118). -/
theorem advance_cfg {n : Nat} {s s' : State} (h : advance n s = .ok s') : s'.cfg = s.cfg := by
  obtain ⟨d, rfl, -⟩ := advance_ok h
  rw [State.addTime_cfg, State.setDrive_cfg]

/-- Neither the register writes of an operation, nor its clock cycles, nor the timer's counters and pc at its end touch the
configuration (R69). -/
theorem exec_cfg {i : Instr} {s s' : State} (h : exec i s = .next s') : s'.cfg = s.cfg := by
  obtain ⟨s₁, s₂, s₃, hwrites, hcycles, htimer, hpc⟩ := exec_next h
  have hwritten : s₁.cfg = s.cfg := (instrWrites_keeps hwrites).1
  have hended : s₃.cfg = s₂.cfg := by
    rcases htimer with rfl | ⟨-, rfl⟩
    · rfl
    · exact State.setTimer_cfg s₂ 0 0
  rw [hpc, State.setPc_cfg, hended, advance_cfg hcycles, hwritten]

/-- A step that goes on is an operation (R187), so it keeps the configuration. -/
theorem step_cfg {s s' : State} (h : step s = .next s') : s'.cfg = s.cfg := by
  obtain ⟨-, -, i, -, hexec⟩ := step_next h
  exact exec_cfg hexec

theorem run_cfg {k : Nat} {s s' : State} (h : Host.Core.run Sys2Proof.core k s = .next s') : s'.cfg = s.cfg :=
  run_keeps (P := fun u => u.cfg = s.cfg) (fun hstep hu => (step_cfg hstep).trans hu) h rfl

/-! ### The statement -/

/-- Settles O32: a run keeps the configuration, and the ROM is a part of it. -/
theorem romIsNeverWritten : Obligations.RomIsNeverWritten := by
  intro k s s' hrun
  have hcfg : s'.cfg = s.cfg := run_cfg hrun
  exact ⟨hcfg, fun i => by rw [hcfg]⟩

end Sys2Proof.Proofs
end

