-- ==== Sys2Proof/Proofs/Encoding.lean ====
section
/-! PROOF. Which words decode (spec 30_encoding.md R82 to R84): each row of the table selects exactly the words of its operation, and
the illegal words are the kinds of R84, which fault when they are fetched. -/

namespace Sys2Proof.Proofs

open Sys2Proof Sys2Proof.Machine Sys2Proof.Laws

/-! ### The decoder, one lemma per branch of R83 -/

/-- The operation codes without an operation: the first kind of R84. -/
def UndefinedCode (op : OpCode) : Prop := op = 0x00 ∨ 0x0C ≤ op.toNat

/-- The codes of the operations without operand: the second kind of R84 is among their words. -/
def plainCodes : List Nat := [0x01, 0x02, 0x03, 0x04, 0x05, 0x06, 0x08]

theorem plainOp_some {op : OpCode} {i : Instr} (h : plainOp op = some i) :
    opcode i = op ∧ operandOf i = 0 ∧ op.toNat ∈ plainCodes := by
  unfold plainOp at h
  split_ifs at h with hop hop hop hop hop hop hop <;> cases h <;> subst hop <;> decide

/-- Every operation code takes an operand, takes none, or is undefined. -/
theorem opCode_cases (op : OpCode) :
    op = 0x07 ∨ op = 0x09 ∨ op = 0x0A ∨ op = 0x0B ∨ (∃ i, plainOp op = some i) ∨ UndefinedCode op := by
  cases hplain : plainOp op with
  | some i => simp
  | none =>
    unfold plainOp at hplain
    split_ifs at hplain
    unfold UndefinedCode
    bv_omega

theorem plainOp_of_mem {op : OpCode} (h : op.toNat ∈ plainCodes) : ∃ i, plainOp op = some i := by
  simp only [plainCodes, List.mem_cons, List.not_mem_nil, or_false] at h
  rcases opCode_cases op with rfl | rfl | rfl | rfl | hplain | hundef
  · simp at h
  · simp at h
  · simp at h
  · simp at h
  · exact hplain
  · unfold UndefinedCode at hundef
    bv_omega

theorem decode_dly {w : OpWord} (h : opField w = 0x07) : decode w = .ok (.dly (immField w)) := by simp [decode, h]

theorem decode_leda {w : OpWord} (h : opField w = 0x09) : decode w = .ok (.leda (immField w)) := by simp [decode, h]

theorem decode_ledd {w : OpWord} (h : opField w = 0x0A) : decode w = .ok (.ledd (immField w)) := by simp [decode, h]

theorem decode_loop {w : OpWord} (h : opField w = 0x0B) :
    decode w = if loopReserved (immField w) = 0 then .ok (.loop (immField w)) else .error .loopTargetTooWide := by
  simp [decode, h]

theorem decode_plain {w : OpWord} {i : Instr} (h : plainOp (opField w) = some i) :
    decode w = if immField w = 0 then .ok i else .error .operandNotZero := by
  obtain ⟨-, -, hmem⟩ := plainOp_some h
  have hdly : opField w ≠ 0x07 := fun hop => by simp [hop, plainCodes] at hmem
  have hleda : opField w ≠ 0x09 := fun hop => by simp [hop, plainCodes] at hmem
  have hledd : opField w ≠ 0x0A := fun hop => by simp [hop, plainCodes] at hmem
  have hloop : opField w ≠ 0x0B := fun hop => by simp [hop, plainCodes] at hmem
  simp only [decode, hdly, hleda, hledd, hloop, h, if_false]

theorem decode_undefined {w : OpWord} (h : UndefinedCode (opField w)) : decode w = .error .undefinedOp := by
  cases hplain : plainOp (opField w) with
  | some i =>
    obtain ⟨-, -, hmem⟩ := plainOp_some hplain
    simp only [plainCodes, List.mem_cons, List.not_mem_nil, or_false] at hmem
    unfold UndefinedCode at h
    bv_omega
  | none =>
    have hcode : opField w ≠ 0x07 ∧ opField w ≠ 0x09 ∧ opField w ≠ 0x0A ∧ opField w ≠ 0x0B := by
      unfold UndefinedCode at h
      bv_omega
    obtain ⟨hdly, hleda, hledd, hloop⟩ := hcode
    simp only [decode, hdly, hleda, hledd, hloop, hplain, if_false]

/-- A decoded instruction has the operation code of its word. -/
theorem opcode_of_decode {w : OpWord} {i : Instr} (h : decode w = .ok i) : opcode i = opField w := by
  rcases opCode_cases (opField w) with hop | hop | hop | hop | ⟨j, hop⟩ | hop
  · rw [decode_dly hop] at h; cases h; exact hop.symm
  · rw [decode_leda hop] at h; cases h; exact hop.symm
  · rw [decode_ledd hop] at h; cases h; exact hop.symm
  · rw [decode_loop hop] at h
    split at h <;> cases h
    exact hop.symm
  · rw [decode_plain hop] at h
    split at h <;> cases h
    exact (plainOp_some hop).1
  · rw [decode_undefined hop] at h; cases h

/-! ### The bits a row fixes in the operand -/

/-- Words are equal when their two fields are (R80). -/
theorem word_ext_iff {v w : OpWord} : v = w ↔ opField v = opField w ∧ immField v = immField w := by
  constructor
  · rintro rfl
    exact ⟨rfl, rfl⟩
  · rintro ⟨hop, himm⟩
    rw [← mkWord_fields v, ← mkWord_fields w, hop, himm]

/-- The bits of the word that every row of R82 fixes: all of `op`, which is the row's, and those of `imm` that are in its mask, as 0. -/
theorem opTable_fields : ∀ r ∈ opTable, opField r.mask = BitVec.allOnes 8 ∧ opField r.matchBits = r.code ∧ immField r.matchBits = 0 := by
  decide

/-- `w and mask = match`, field by field. -/
theorem and_mask_eq_match_iff {r : OpRow} (hr : r ∈ opTable) {w : OpWord} :
    w &&& r.mask = r.matchBits ↔ opField w = r.code ∧ immField w &&& immField r.mask = 0 := by
  obtain ⟨hmask, hcode, himm⟩ := opTable_fields r hr
  have hop : opField (w &&& r.mask) = opField w := by
    rw [opField, BitVec.extractLsb'_and, ← opField, ← opField, hmask, BitVec.and_allOnes]
  have hfixed : immField (w &&& r.mask) = immField w &&& immField r.mask := BitVec.extractLsb'_and
  rw [word_ext_iff, hop, hfixed, hcode, himm]

/-- Masking a LOOP operand with 0xFFE0 keeps `imm[15:5]` (R81). -/
theorem and_loopMask (imm : Operand) : imm &&& 0xFFE0 = (loopReserved imm ++ 0#5 : BitVec (11 + 5)) := by
  have hsplit : (imm.extractLsb' 5 11 ++ imm.extractLsb' 0 5 : BitVec (11 + 5)) = imm :=
    (BitVec.extractLsb'_append_extractLsb'_eq_extractLsb' (start₁ := 0) (len₁ := 5) rfl).trans BitVec.extractLsb'_eq_self
  have hmask : (BitVec.allOnes 11 ++ 0#5 : BitVec (11 + 5)) = 0xFFE0 := by decide
  calc imm &&& 0xFFE0
      = (imm.extractLsb' 5 11 ++ imm.extractLsb' 0 5 : BitVec (11 + 5)) &&& (BitVec.allOnes 11 ++ 0#5) := by rw [hsplit, hmask]
    _ = loopReserved imm ++ 0#5 := by rw [BitVec.and_append, BitVec.and_allOnes, BitVec.and_zero, loopReserved]

theorem and_loopMask_eq_zero_iff {imm : Operand} : imm &&& 0xFFE0 = 0 ↔ loopReserved imm = 0 := by
  rw [and_loopMask]
  exact BitVec.append_left_inj (s₂ := 0#11) 0#5

/-! ### What a row of the table decodes to -/

/-- A row of the table as a rule of the decoder: a word with the row's code decodes exactly where its operand is 0 in the bits of the
row's mask, and then to the operation `f` with that operand. -/
structure RowDecodes (r : OpRow) (f : Operand → Instr) : Prop where
  code : ∀ imm, opcode (f imm) = r.code
  operand : ∀ imm, imm &&& immField r.mask = 0 → operandOf (f imm) = imm
  decodes : ∀ w i, opField w = r.code → (decode w = .ok i ↔ immField w &&& immField r.mask = 0 ∧ f (immField w) = i)

/-- The last check of a branch of R83: the decoder answers `j` where the operand passes it. -/
theorem checked_eq_ok_iff {P : Prop} [Decidable P] {e : IllegalWord} {i j : Instr} :
    (if P then .ok j else .error e : Except IllegalWord Instr) = .ok i ↔ P ∧ j = i := by
  by_cases h : P <;> simp [h]

/-- A row whose mask is the whole word: an operation without operand. -/
theorem rowDecodes_plain {op : OpCode} {i : Instr} (h : plainOp op = some i) (m : OpWord) :
    RowDecodes ⟨op, m, 0xFFFFFF⟩ fun _ => i := by
  have hmask : ∀ imm : Operand, imm &&& immField 0xFFFFFF = imm := fun imm => BitVec.and_allOnes
  obtain ⟨hcode, hoperand, -⟩ := plainOp_some h
  refine ⟨fun _ => hcode, fun imm himm => ?_, fun w j hw => ?_⟩
  · rw [hmask] at himm
    rw [himm, hoperand]
  · rw [hmask, decode_plain (by rw [hw, h]), checked_eq_ok_iff]

/-- A row whose mask is the code alone: an operation with any operand. -/
theorem rowDecodes_operand {op : OpCode} {f : Operand → Instr} (hcode : ∀ imm, opcode (f imm) = op)
    (hoperand : ∀ imm, operandOf (f imm) = imm) (hdecode : ∀ {w}, opField w = op → decode w = .ok (f (immField w))) (m : OpWord) :
    RowDecodes ⟨op, m, 0xFF0000⟩ f := by
  have hmask : ∀ imm : Operand, imm &&& immField 0xFF0000 = 0 := fun imm => BitVec.and_zero
  refine ⟨hcode, fun imm _ => hoperand imm, fun w i hw => ?_⟩
  rw [hdecode hw, Except.ok.injEq, and_iff_right (hmask _)]

/-- The row of LOOP, whose mask leaves out the five bits of the target. -/
theorem rowDecodes_loop (m : OpWord) : RowDecodes ⟨0x0B, m, 0xFFFFE0⟩ .loop := by
  have hmask : immField 0xFFFFE0 = 0xFFE0 := by decide
  refine ⟨fun _ => rfl, fun _ _ => rfl, fun w i hw => ?_⟩
  rw [hmask, and_loopMask_eq_zero_iff, decode_loop hw, checked_eq_ok_iff]

theorem opTable_decodes : ∀ r ∈ opTable, ∃ f, RowDecodes r f := by
  simp only [opTable, List.forall_mem_cons]
  exact ⟨⟨_, rowDecodes_plain (i := .pincfg) rfl _⟩,
    ⟨_, rowDecodes_plain (i := .pinidle) rfl _⟩,
    ⟨_, rowDecodes_plain (i := .ldper) rfl _⟩,
    ⟨_, rowDecodes_plain (i := .cgstop) rfl _⟩,
    ⟨_, rowDecodes_plain (i := .cgen) rfl _⟩,
    ⟨_, rowDecodes_plain (i := .iroff) rfl _⟩,
    ⟨_, rowDecodes_operand (f := .dly) (fun _ => rfl) (fun _ => rfl) decode_dly _⟩,
    ⟨_, rowDecodes_plain (i := .incb) rfl _⟩,
    ⟨_, rowDecodes_operand (f := .leda) (fun _ => rfl) (fun _ => rfl) decode_leda _⟩,
    ⟨_, rowDecodes_operand (f := .ledd) (fun _ => rfl) (fun _ => rfl) decode_ledd _⟩,
    ⟨_, rowDecodes_loop _⟩,
    List.forall_mem_nil _⟩

/-- A word decodes to an operation of the row, with the word's operand, exactly when its fields are as the row says. -/
theorem RowDecodes.selects {r : OpRow} {f : Operand → Instr} (h : RowDecodes r f) (w : OpWord) :
    (∃ i, decode w = .ok i ∧ opcode i = r.code ∧ operandOf i = immField w) ↔
      opField w = r.code ∧ immField w &&& immField r.mask = 0 := by
  constructor
  · rintro ⟨i, hi, hcode, -⟩
    have hop : opField w = r.code := (opcode_of_decode hi).symm.trans hcode
    exact ⟨hop, ((h.decodes w i hop).mp hi).1⟩
  · rintro ⟨hop, himm⟩
    exact ⟨f (immField w), (h.decodes w _ hop).mpr ⟨himm, rfl⟩, h.code _, h.operand _ himm⟩

theorem opTable_codes_distinct : opTable.Pairwise fun a b => a.code ≠ b.code := by decide

/-- Settles O3: mask and match say the same of the fields of a word as the decoder does; rows do not overlap because their codes
differ. -/
theorem tableRowSelectsItsWords : Obligations.TableRowSelectsItsWords := by
  constructor
  · refine opTable_codes_distinct.imp_of_mem fun ha hb hne w ⟨hwa, hwb⟩ => hne ?_
    obtain ⟨hcode, -⟩ := (and_mask_eq_match_iff ha).mp hwa
    obtain ⟨hcode', -⟩ := (and_mask_eq_match_iff hb).mp hwb
    exact hcode.symm.trans hcode'
  · intro r hr w
    obtain ⟨f, hrow⟩ := opTable_decodes r hr
    rw [and_mask_eq_match_iff hr, hrow.selects]

/-! ### The illegal words -/

/-- The words that are illegal for each reason the decoder gives (R84). -/
def IllegalKind (w : OpWord) : IllegalWord → Prop
  | .undefinedOp => UndefinedCode (opField w)
  | .operandNotZero => (opField w).toNat ∈ plainCodes ∧ immField w ≠ 0
  | .loopTargetTooWide => opField w = 0x0B ∧ loopReserved (immField w) ≠ 0

/-- The decoder answers a reason exactly on the words of that kind. -/
theorem decode_error_iff {w : OpWord} {e : IllegalWord} : decode w = .error e ↔ IllegalKind w e := by
  constructor
  · intro h
    rcases opCode_cases (opField w) with hop | hop | hop | hop | ⟨i, hop⟩ | hop
    · rw [decode_dly hop] at h; cases h
    · rw [decode_leda hop] at h; cases h
    · rw [decode_ledd hop] at h; cases h
    · rw [decode_loop hop] at h
      split at h <;> cases h
      exact ⟨hop, ‹_›⟩
    · rw [decode_plain hop] at h
      split at h <;> cases h
      exact ⟨(plainOp_some hop).2.2, ‹_›⟩
    · rw [decode_undefined hop] at h
      cases h
      exact hop
  · intro h
    cases e with
    | undefinedOp => exact decode_undefined h
    | operandNotZero =>
      obtain ⟨hmem, himm⟩ := h
      obtain ⟨i, hop⟩ := plainOp_of_mem hmem
      rw [decode_plain hop, if_neg himm]
    | loopTargetTooWide =>
      obtain ⟨hop, hreserved⟩ := h
      rw [decode_loop hop, if_neg hreserved]

/-- The reasons of the decoder taken together are the list of R84. -/
theorem exists_decode_error_iff {w : OpWord} :
    (∃ e, decode w = .error e) ↔
      opField w = 0x00 ∨ 0x0C ≤ (opField w).toNat ∨ ((opField w).toNat ∈ plainCodes ∧ immField w ≠ 0) ∨
      (opField w = 0x0B ∧ loopReserved (immField w) ≠ 0) := by
  simp only [decode_error_iff]
  constructor
  · rintro ⟨_ | _ | _, h⟩
    · exact h.imp_right .inl
    · exact .inr (.inr (.inl h))
    · exact .inr (.inr (.inr h))
  · rintro (h | h | h | h)
    · exact ⟨.undefinedOp, .inl h⟩
    · exact ⟨.undefinedOp, .inr h⟩
    · exact ⟨.operandNotZero, h⟩
    · exact ⟨.loopTargetTooWide, h⟩

/-- A step whose fetch or decode fails is that fault (R187). -/
theorem step_of_fetchDecode_error {s : State} {f : Fault} (hl : cfgLegal s.cfg = true) (hf : s.fault = none)
    (hd : fetchDecode s = .error f) : step s = .fault f := by
  simp only [step, hl, hf, hd, if_true]

/-- The operations of the reference ROM: STARTUP, then the loop of the beacon with its three transmissions (R170). -/
def beaconInstrs : List Instr :=
  startupInstrs ++ [.incb, .leda 2000] ++ txExpansion 622 1195 ++ txExpansion 622 1195 ++ txExpansion 622 5994 ++
    [.ledd 2005, .loop 4]

theorem referenceProgram_decodes : referenceProgram.map decode = beaconInstrs.map .ok := by decide

theorem exists_decode_of_mem_referenceProgram {w : OpWord} (h : w ∈ referenceProgram) : ∃ i, decode w = .ok i := by
  have hmem : decode w ∈ beaconInstrs.map .ok := referenceProgram_decodes ▸ List.mem_map_of_mem h
  obtain ⟨i, -, hi⟩ := List.mem_map.mp hmem
  exact ⟨i, hi.symm⟩

/-- Settles O4: the kinds of R84 are the reasons of the decoder, and the step faults where the decoder answers one. -/
theorem illegalWordsFaultWhenFetched : Obligations.IllegalWordsFaultWhenFetched := by
  refine ⟨fun w => exists_decode_error_iff, ?_, ⟨.undefinedOp, decode_undefined (.inl rfl)⟩,
    fun w => exists_decode_of_mem_referenceProgram⟩
  intro s w hl hf hw ⟨e, he⟩
  exact step_of_fetchDecode_error hl hf (fetchDecode_error.mpr (.inr ⟨w, e, hw, he, rfl⟩))

end Sys2Proof.Proofs
end

