-- ==== Sys2Proof/Proofs/Busywait.lean ====
section
/-! PROOF. The calibrated busy-wait (spec 40_busywait.md R100, R101): the state after `n` clock cycles is the closed form of R119 (or the
fault of R184), so DLY lets exactly its cycles pass; and the cycle-by-cycle loop of the timer keeps its counters in step with the
number of cycles passed, so the two grains agree. -/

namespace Sys2Proof.Proofs

open Sys2Proof Sys2Proof.Machine

/-! ### One clock cycle of the carrier generator (R117) -/

/-- The register whose read faults where the carrier cannot run: CNT is read first, then PERIOD, and IR at a toggle (R184; log entry 12). -/
def missingRegister (s : State) : RegName := if s.cnt = none then .cnt else if s.period = none then .period else .ir

/-- Everything a `cg_tick` can do when it completes: nothing (EN = 0), toggle (CNT = PERIOD), or count. -/
theorem cgTick_ok {s s' : State} (h : cgTick s = .ok s') :
    (s.en = false ∧ s' = s) ∨
    (∃ p v, s.en = true ∧ s.period = some p ∧ s.cnt = some p ∧ s.ir = some v ∧
      s' = ((s.setCnt 0).setFlag (some true)).setIr (!v)) ∨
    (∃ p c, s.en = true ∧ s.period = some p ∧ s.cnt = some c ∧ c ≠ p ∧ s' = s.setCnt (c + 1)) := by
  unfold cgTick at h
  split at h
  · next d hd =>
    cases h
    rcases driveTick_ok hd with ⟨hen, rfl⟩ | ⟨p, v, hen, hp, hc, hv, rfl⟩ | ⟨p, c, hen, hp, hc, hne, rfl⟩
    · exact .inl ⟨hen, rfl⟩
    · exact .inr (.inl ⟨p, v, hen, hp, hc, hv, by simp [State.setDrive, State.setCnt, State.setFlag, State.setIr]⟩)
    · exact .inr (.inr ⟨p, c, hen, hp, hc, hne, rfl⟩)
  · cases h

/-- A `cg_tick` fails with EN = 1 alone, where CNT or PERIOD holds no value, or IR holds none and is to be toggled. -/
theorem cgTick_error {s : State} {f : Fault} (h : cgTick s = .error f) :
    s.en = true ∧ f = .uninit s.pc (missingRegister s) ∧
      (s.cnt = none ∨ s.period = none ∨ ∃ p, s.cnt = some p ∧ s.period = some p ∧ s.ir = none) := by
  unfold cgTick at h
  split at h
  · cases h
  · next r hr =>
    cases h
    have hread := driveTick_error hr
    simp only [State.drive_en, State.drive_cnt, State.drive_period, State.drive_ir] at hread
    obtain ⟨hen, ⟨hc, rfl⟩ | ⟨hc, hp, rfl⟩ | ⟨p, hc, hp, hv, rfl⟩⟩ := hread
    · exact ⟨hen, by rw [missingRegister, if_pos hc], .inl hc⟩
    · exact ⟨hen, by rw [missingRegister, if_neg hc, if_pos hp], .inr (.inl hp)⟩
    · exact ⟨hen, by simp [missingRegister, hc, hp], .inr (.inr ⟨p, hc, hp, hv⟩)⟩

theorem carrierFits_addTime {s : State} {n : Nat} : CarrierFits (s.addTime n) ↔ CarrierFits s := Iff.rfl

/-- What a `cg_tick` leaves unchanged, of the registers that later proofs speak of. -/
theorem cgTick_keeps {s s' : State} (h : cgTick s = .ok s') :
    s'.cfg = s.cfg ∧ s'.pc = s.pc ∧ s'.en = s.en ∧ s'.period = s.period := by
  rcases cgTick_ok h with ⟨-, rfl⟩ | ⟨p, v, -, -, -, -, rfl⟩ | ⟨p, c, -, -, -, -, rfl⟩ <;> exact ⟨rfl, rfl, rfl, rfl⟩

/-- A `cg_tick` keeps CNT and PERIOD within their width (R28, R29). -/
theorem cgTick_fits {s s' : State} (hfit : CarrierFits s) (h : cgTick s = .ok s') : CarrierFits s' := by
  have hwrite (n : Nat) : n % 2 ^ s.cfg.wPeriod < 2 ^ s.cfg.wPeriod := Nat.mod_lt _ (Nat.two_pow_pos _)
  obtain ⟨hperiod, hcnt⟩ := hfit
  rcases cgTick_ok h with ⟨-, rfl⟩ | ⟨p, v, -, -, -, -, rfl⟩ | ⟨p, c, -, -, -, -, rfl⟩
  · exact ⟨hperiod, hcnt⟩
  · exact ⟨hperiod, by rintro _ ⟨⟩; exact hwrite 0⟩
  · exact ⟨hperiod, by rintro _ ⟨⟩; exact hwrite (c + 1)⟩

/-- A `cg_tick` that completes leaves it as it is which of CNT and PERIOD hold a value. -/
theorem cgTick_missingRegister {s s' : State} (h : cgTick s = .ok s') : missingRegister s' = missingRegister s := by
  rcases cgTick_ok h with ⟨-, rfl⟩ | ⟨p, v, -, hp, hc, -, rfl⟩ | ⟨p, c, -, hp, hc, -, rfl⟩
  · rfl
  · simp [missingRegister, hc, hp]
  · simp [missingRegister, hc, hp]

/-! ### The numbers of the closed form (R119), one cycle at a time -/

theorem firstToggle_pos (w c p : Nat) : 0 < firstToggle w c p := by
  unfold firstToggle
  split <;> omega

theorem firstToggle_match (w p : Nat) : firstToggle w p p = 1 := by simp [firstToggle]

theorem firstToggle_zero (w p : Nat) : firstToggle w 0 p = p + 1 := by simp [firstToggle]

/-- A cycle that only counts brings the first toggle one cycle closer, the wrap of CNT through 0 included. -/
theorem firstToggle_count {w c p : Nat} (hc : c < 2 ^ w) (hp : p < 2 ^ w) (hne : c ≠ p) :
    firstToggle w c p = firstToggle w ((c + 1) % 2 ^ w) p + 1 := by
  rcases Nat.lt_or_ge (c + 1) (2 ^ w) with hlt | hge
  · rw [Nat.mod_eq_of_lt hlt]
    unfold firstToggle
    split <;> split <;> omega
  · have hlast : c + 1 = 2 ^ w := by omega
    rw [hlast, Nat.mod_self, firstToggle_zero, firstToggle, if_neg (by omega)]
    omega

theorem toggleCount_count {w c p : Nat} (hc : c < 2 ^ w) (hp : p < 2 ^ w) (hne : c ≠ p) (n : Nat) :
    toggleCount w c p (n + 1) = toggleCount w ((c + 1) % 2 ^ w) p n := by
  simp only [toggleCount, firstToggle_count hc hp hne, Nat.add_lt_add_iff_right, Nat.add_sub_add_right]

theorem toggleCount_match (w p n : Nat) : toggleCount w p p (n + 1) = toggleCount w 0 p n + 1 := by
  rw [toggleCount, toggleCount, firstToggle_match, firstToggle_zero, if_neg (by omega), Nat.add_sub_cancel, Nat.add_comm]
  split
  · next h => rw [Nat.div_eq_of_lt h]
  · next h => rw [Nat.div_eq_sub_div (by omega) (by omega), Nat.add_comm 1]

theorem cntAfter_count {w c p : Nat} (hc : c < 2 ^ w) (hp : p < 2 ^ w) (hne : c ≠ p) (n : Nat) :
    cntAfter w c p (n + 1) = cntAfter w ((c + 1) % 2 ^ w) p n := by
  simp only [cntAfter, firstToggle_count hc hp hne, Nat.add_lt_add_iff_right, Nat.add_sub_add_right, Nat.mod_add_mod,
    Nat.add_assoc, Nat.add_comm 1]

theorem cntAfter_match {w p : Nat} (hp : p < 2 ^ w) (n : Nat) : cntAfter w p p (n + 1) = cntAfter w 0 p n := by
  rw [cntAfter, cntAfter, firstToggle_match, firstToggle_zero, if_neg (by omega), Nat.add_sub_cancel, Nat.zero_add]
  split
  · next h => rw [Nat.mod_eq_of_lt h, Nat.mod_eq_of_lt (by omega)]
  · next h => exact Nat.mod_eq_sub_mod (by omega)

theorem levelAfter_succ (v : Bit) (k : Nat) : levelAfter v (k + 1) = levelAfter (!v) k := by
  unfold levelAfter
  rcases Nat.mod_two_eq_zero_or_one k with h | h <;> simp [Nat.add_mod, h]

/-! ### `advance` and its closed form -/

theorem afterCycles_stopped {s : State} (hen : s.en = false) (n : Nat) : afterCycles n s = s.addTime n := by
  simp [afterCycles, hen, State.addTime]

theorem afterCycles_running {s : State} {c p : Nat} (hen : s.en = true) (hc : s.cnt = some c) (hp : s.period = some p) (n : Nat) :
    afterCycles n s = { s with
      cnt := some (cntAfter s.cfg.wPeriod c p n)
      ir := s.ir.map (fun v => levelAfter v (toggleCount s.cfg.wPeriod c p n))
      flag := if toggleCount s.cfg.wPeriod c p n = 0 then s.flag else some true
      t := s.t + n } := by
  simp [afterCycles, hen, hc, hp]

theorem carrierRuns_running {s : State} {c p : Nat} (hen : s.en = true) (hc : s.cnt = some c) (hp : s.period = some p) (n : Nat) :
    CarrierRuns n s ↔ s.ir ≠ none ∨ n < firstToggle s.cfg.wPeriod c p := by
  have hpos : 0 < firstToggle s.cfg.wPeriod c p := firstToggle_pos ..
  simp only [CarrierRuns, hen, hc, hp, Option.some.injEq, exists_eq_left', Bool.true_eq_false, false_or]
  constructor
  · rintro (rfl | h)
    · exact .inr hpos
    · exact h
  · exact .inr

/-- `advance(0)` in closed form: CNT is within its width, so nothing is cut off. -/
theorem afterCycles_zero {s : State} (hfit : CarrierFits s) : afterCycles 0 s = s := by
  obtain ⟨-, hwidth⟩ := hfit
  unfold afterCycles
  split
  · next c p _ hc _ =>
    have hcnt : cntAfter s.cfg.wPeriod c p 0 = c := by simp [cntAfter, firstToggle_pos, Nat.mod_eq_of_lt (hwidth c hc)]
    have htoggles : toggleCount s.cfg.wPeriod c p 0 = 0 := by simp [toggleCount, firstToggle_pos]
    rw [hcnt, htoggles, ← hc]
    simp [levelAfter]
  · rfl
  · rfl
  · rfl

/-- The closed form of `n + 1` cycles is one `cg_tick` and the closed form of the other `n`. -/
theorem afterCycles_succ {s s' : State} (hfit : CarrierFits s) (h : cgTick s = .ok s') (n : Nat) :
    afterCycles (n + 1) s = afterCycles n (s'.addTime 1) := by
  obtain ⟨hperiod, hcnt⟩ := hfit
  obtain ⟨-, -, hen', hp'⟩ := cgTick_keeps h
  rcases cgTick_ok h with ⟨hen, hs⟩ | ⟨p, v, hen, hp, hc, hv, hs⟩ | ⟨p, c, hen, hp, hc, hne, hs⟩
  · rw [hs, afterCycles_stopped hen, afterCycles_stopped (s := s.addTime 1) hen, State.addTime_addTime, Nat.add_comm]
  · have hc' : (s'.addTime 1).cnt = some 0 := by simp [hs]
    rw [afterCycles_running hen hc hp, afterCycles_running (s := s'.addTime 1) (hen'.trans hen) hc' (hp'.trans hp)]
    simp [hs, hv, State.addTime, State.setCnt, State.setFlag, State.setIr, cntAfter_match (hperiod p hp), toggleCount_match,
      levelAfter_succ, Nat.add_assoc, Nat.add_comm 1]
  · have hcount := toggleCount_count (hcnt c hc) (hperiod p hp) hne n
    have hc' : (s'.addTime 1).cnt = some ((c + 1) % 2 ^ s.cfg.wPeriod) := by simp [hs]
    rw [afterCycles_running hen hc hp, afterCycles_running (s := s'.addTime 1) (hen'.trans hen) hc' (hp'.trans hp)]
    simp [hs, State.addTime, State.setCnt, cntAfter_count (hcnt c hc) (hperiod p hp) hne, hcount, Nat.add_assoc, Nat.add_comm 1]

/-- `n + 1` cycles read only registers that hold a value exactly when the other `n` do after a first one that completes. -/
theorem carrierRuns_succ {s s' : State} (hfit : CarrierFits s) (h : cgTick s = .ok s') (n : Nat) :
    CarrierRuns (n + 1) s ↔ CarrierRuns n (s'.addTime 1) := by
  obtain ⟨hperiod, hcnt⟩ := hfit
  obtain ⟨-, -, hen', hp'⟩ := cgTick_keeps h
  rcases cgTick_ok h with ⟨hen, hs⟩ | ⟨p, v, hen, hp, hc, hv, hs⟩ | ⟨p, c, hen, hp, hc, hne, hs⟩
  · simp [hs, CarrierRuns, hen]
  · have hc' : (s'.addTime 1).cnt = some 0 := by simp [hs]
    rw [carrierRuns_running hen hc hp, carrierRuns_running (s := s'.addTime 1) (hen'.trans hen) hc' (hp'.trans hp)]
    simp [hs, hv]
  · have hc' : (s'.addTime 1).cnt = some ((c + 1) % 2 ^ s.cfg.wPeriod) := by simp [hs]
    rw [carrierRuns_running hen hc hp, carrierRuns_running (s := s'.addTime 1) (hen'.trans hen) hc' (hp'.trans hp),
      firstToggle_count (hcnt c hc) (hperiod p hp) hne]
    simp [hs]

/-- No number of cycles runs where the first one fails. -/
theorem not_carrierRuns_of_cgTick_error {s : State} {f : Fault} (h : cgTick s = .error f) (n : Nat) : ¬ CarrierRuns (n + 1) s := by
  obtain ⟨hen, -, hc | hp | ⟨p, hc, hp, hv⟩⟩ := cgTick_error h
  · simp [CarrierRuns, hen, hc]
  · simp [CarrierRuns, hen, hp]
  · rw [carrierRuns_running hen hc hp, firstToggle_match]
    simp [hv]

/-- Where the cycles read only registers that hold a value, `advance` ends in its closed form (R119). -/
theorem advance_eq_afterCycles {n : Nat} {s : State} (hfit : CarrierFits s) (hrun : CarrierRuns n s) :
    advance n s = .ok (afterCycles n s) := by
  induction n generalizing s with
  | zero => rw [advance_zero, afterCycles_zero hfit]
  | succ n ih =>
    rw [advance_succ]
    cases h : cgTick s with
    | error f => exact absurd hrun (not_carrierRuns_of_cgTick_error h n)
    | ok s' =>
      have hfit' : CarrierFits (s'.addTime 1) := carrierFits_addTime.mpr (cgTick_fits hfit h)
      rw [afterCycles_succ hfit h]
      exact ih hfit' ((carrierRuns_succ hfit h n).mp hrun)

/-- Where they do not, `advance` faults with the name of the first register read without a value (R184). -/
theorem advance_eq_error {n : Nat} {s : State} (hfit : CarrierFits s) (hrun : ¬ CarrierRuns n s) :
    advance n s = .error (.uninit s.pc (missingRegister s)) := by
  induction n generalizing s with
  | zero => exact absurd (.inl rfl) hrun
  | succ n ih =>
    rw [advance_succ]
    cases h : cgTick s with
    | error f =>
      obtain ⟨-, rfl, -⟩ := cgTick_error h
      rfl
    | ok s' =>
      have hfit' : CarrierFits (s'.addTime 1) := carrierFits_addTime.mpr (cgTick_fits hfit h)
      obtain ⟨-, hpc, -, -⟩ := cgTick_keeps h
      rw [← hpc, ← cgTick_missingRegister h]
      exact ih hfit' (mt (carrierRuns_succ hfit h n).mpr hrun)

/-! ### DLY as one step (R100, R104) -/

theorem dlyWrites_zero (s : State) : dlyWrites 0 s = .error (.dlyZero s.pc) := rfl

theorem dlyWrites_of_ne {imm : Operand} (h : imm ≠ 0) (s : State) : dlyWrites imm s = .ok (s.setTimer imm.toNat 0) :=
  if_neg fun h0 => h (BitVec.eq_of_toNat_eq h0)

/-- A DLY whose cycles complete from the state before it: the timer's counters do not enter. -/
theorem exec_dly_of_advance_ok {imm : Operand} {s s' : State} (h : imm ≠ 0) (hadv : advance (imm.toNat * s.cfg.k) s = .ok s') :
    exec (.dly imm) s = .next { s' with dlyUs := 0, dlySub := 0, pc := s.pc + 1 } := by
  have hadv' : advance (dlyCycles imm s.cfg) (s.setTimer imm.toNat 0) = .ok (s'.setTimer imm.toNat 0) := by
    rw [advance_setTimer, dlyCycles, immNat, hadv]
  simp only [exec, execDly, dlyWrites_of_ne h, hadv']
  rfl

theorem exec_dly_of_advance_error {imm : Operand} {s : State} {f : Fault} (h : imm ≠ 0)
    (hadv : advance (imm.toNat * s.cfg.k) s = .error f) : exec (.dly imm) s = .fault f := by
  have hadv' : advance (dlyCycles imm s.cfg) (s.setTimer imm.toNat 0) = .error f := by
    rw [advance_setTimer, dlyCycles, immNat, hadv]
  simp only [exec, execDly, dlyWrites_of_ne h, hadv']

/-- Settles O23: the cycles of DLY end in the closed form of `advance` or in its fault; a zero operand is refused before them. -/
theorem dlyLetsExactlyItsCyclesPass : Obligations.DlyLetsExactlyItsCyclesPass := by
  refine ⟨fun s imm h hfit hrun => ?_, fun s imm h hfit hrun => ?_, fun s => ?_⟩
  · exact exec_dly_of_advance_ok h (advance_eq_afterCycles hfit hrun)
  · exact ⟨missingRegister s, exec_dly_of_advance_error h (advance_eq_error hfit hrun)⟩
  · simp only [exec, execDly, dlyWrites_zero]

/-! ### The wait at clock-cycle grain (R101) -/

/-- The timer's counters `j` clock cycles after a DLY wrote `us` and 0 to them: one iteration of DLY_US for every `k` cycles, the rest of
the cycles in DLY_SUB. -/
def timerAfter (k us j : Nat) : Nat × Nat := (us - j / k, j % k)

theorem timerAfter_zero (k us : Nat) : timerAfter k us 0 = (us, 0) := by simp [timerAfter]

theorem timerAfter_all {k : Nat} (hk : 1 ≤ k) (us : Nat) : timerAfter k us (us * k) = (0, 0) := by
  simp [timerAfter, Nat.mul_div_cancel _ hk]

/-- DLY_US never exceeds its first value, so its width loses nothing. -/
theorem timerAfter_fst_lt {k us j b : Nat} (h : us < b) : (timerAfter k us j).1 < b := Nat.lt_of_le_of_lt (Nat.sub_le _ _) h

/-- DLY_US is not 0 before the last of the `us * k` cycles. -/
theorem timerAfter_fst_ne_zero {k us j : Nat} (h : j < us * k) : (timerAfter k us j).1 ≠ 0 := by
  have hdone : j / k < us := Nat.div_lt_of_lt_mul (Nat.mul_comm us k ▸ h)
  simp only [timerAfter]
  omega

/-- The two counters account for every cycle: whole iterations of exactly `k` cycles and the rest of the running one. -/
theorem timerAfter_accounts {k us j : Nat} (h : j < us * k) : (us - (timerAfter k us j).1) * k + (timerAfter k us j).2 = j := by
  have hdone : j / k < us := Nat.div_lt_of_lt_mul (Nat.mul_comm us k ▸ h)
  calc (us - (us - j / k)) * k + j % k = j / k * k + j % k := by rw [Nat.sub_sub_self hdone.le]
    _ = j := Nat.div_add_mod' j k

/-- The `if` of R101 takes the counters from one cycle to the next. -/
theorem timerNext_timerAfter {k : Nat} (hk : 1 ≤ k) (us j : Nat) :
    timerNext k (timerAfter k us j).1 (timerAfter k us j).2 = timerAfter k us (j + 1) := by
  have hj : k * (j / k) + j % k = j := Nat.div_add_mod j k
  have hlt : j % k < k := Nat.mod_lt _ hk
  unfold timerNext timerAfter
  split
  · next hlast =>
    have hnext : (j + 1) / k = j / k + 1 ∧ (j + 1) % k = 0 := (Nat.div_mod_unique hk).mpr ⟨by rw [Nat.mul_succ]; omega, hk⟩
    rw [hnext.1, hnext.2, Nat.sub_sub]
  · next hlast =>
    have hnext : (j + 1) / k = j / k ∧ (j + 1) % k = j % k + 1 := (Nat.div_mod_unique hk).mpr ⟨by omega, by omega⟩
    rw [hnext.1, hnext.2]

theorem cgTick_setTimer (us sub : Nat) (s : State) :
    cgTick (s.setTimer us sub) = (cgTick s).map (State.setTimer · us sub) := by
  unfold cgTick
  rw [State.drive_setTimer, State.setTimer_cfg]
  cases driveTick s.cfg.wPeriod s.drive <;> rfl

/-- One cycle of the loop is one cycle of `advance` with the counters moved on. -/
theorem timerCycle_setTimer {us : Nat} (hus : us < 2 ^ 16) (sub : Nat) (s : State) :
    timerCycle (s.setTimer us sub) =
      (cgTick s).map fun s' => (s'.addTime 1).setTimer (timerNext s.cfg.k us sub).1 (timerNext s.cfg.k us sub).2 := by
  unfold timerCycle
  rw [cgTick_setTimer, State.setTimer_cfg, State.setTimer_dlyUs, State.setTimer_dlySub, Nat.mod_eq_of_lt hus]
  cases cgTick s <;> rfl

/-- The loop's invariant: started `j` cycles into a wait of `us` iterations, `m` more cycles of it are `advance(m)` with the counters at
`j + m`. -/
theorem timerLoop_eq_advance {k us : Nat} (hk : 1 ≤ k) (hus : us < 2 ^ 16) {m j : Nat} (hm : j + m ≤ us * k) {s : State}
    (hs : s.cfg.k = k) :
    timerLoop m (s.setTimer (timerAfter k us j).1 (timerAfter k us j).2) =
      (advance m s).map (State.setTimer · (timerAfter k us (j + m)).1 (timerAfter k us (j + m)).2) := by
  induction m generalizing j s with
  | zero => rw [advance_zero]; rfl
  | succ m ih =>
    have hlt : (timerAfter k us j).1 < 2 ^ 16 := timerAfter_fst_lt hus
    have hne : (s.setTimer (timerAfter k us j).1 (timerAfter k us j).2).dlyUs ≠ 0 := by
      rw [State.setTimer_dlyUs, Nat.mod_eq_of_lt hlt]
      exact timerAfter_fst_ne_zero (by omega)
    rw [timerLoop, if_neg hne, timerCycle_setTimer hlt, hs, timerNext_timerAfter hk, advance_succ]
    cases h : cgTick s with
    | error f => rfl
    | ok s' =>
      obtain ⟨hcfg, -, -, -⟩ := cgTick_keeps h
      rw [← Nat.add_assoc, Nat.add_right_comm j m 1]
      exact ih (j := j + 1) (by omega) (s := s'.addTime 1) (hcfg ▸ hs)

/-- The same from the beginning of the wait. -/
theorem timerLoop_of_dly (s : State) (imm : Operand) (hk : 1 ≤ s.cfg.k) {m : Nat} (hm : m ≤ imm.toNat * s.cfg.k) :
    timerLoop m (s.setTimer imm.toNat 0) =
      (advance m s).map (State.setTimer · (timerAfter s.cfg.k imm.toNat m).1 (timerAfter s.cfg.k imm.toNat m).2) := by
  have h := timerLoop_eq_advance hk imm.isLt (j := 0) (m := m) (by omega) (s := s) rfl
  rwa [timerAfter_zero, Nat.zero_add] at h

/-- Settles O24: the loop is `advance` with the timer's counters in step, which are 0 after the last cycle. -/
theorem timerGrainsAgree : Obligations.TimerGrainsAgree := by
  intro s imm hk _
  constructor
  · rw [timerLoop_of_dly s imm hk (Nat.le_refl _), timerAfter_all hk]
    cases advance (imm.toNat * s.cfg.k) s <;> rfl
  · intro m s' hm hloop
    rw [timerLoop_of_dly s imm hk (Nat.le_of_lt hm)] at hloop
    cases hadv : advance m s with
    | error f => rw [hadv] at hloop; cases hloop
    | ok s₁ =>
      rw [hadv] at hloop
      cases hloop
      rw [State.setTimer_dlyUs, State.setTimer_dlySub, Nat.mod_eq_of_lt (timerAfter_fst_lt imm.isLt)]
      exact ⟨timerAfter_fst_ne_zero hm, Nat.mod_lt _ hk, timerAfter_accounts hm⟩

end Sys2Proof.Proofs
end

