-- ==== Sys2Proof/Proofs/Carrier.lean ====
section
/-! PROOF. The carrier generator (spec 41_carrier.md): the closed form of `advance` with its toggles (R119), the period value (R110), the
four operations of the generator (R111 to R114), who writes its registers (R116), and that stopping it and forcing the pin silences the
emitter for good (R121). -/

namespace Sys2Proof.Proofs

open Sys2Proof Sys2Proof.Machine

/-! ### The numbers of the closed form with CNT at most PERIOD, and above it (R119) -/

theorem toggleCount_of_le {w c p : Nat} (hcp : c ≤ p) (n : Nat) : toggleCount w c p n = (c + n) / (p + 1) := by
  have hfirst : firstToggle w c p = p + 1 - c := if_pos hcp
  rw [toggleCount, hfirst]
  split
  · next hbefore => rw [Nat.div_eq_of_lt (by omega)]
  · next hafter =>
    have hsum : c + n = n - (p + 1 - c) + (p + 1) := by omega
    rw [hsum, Nat.add_div_right _ (Nat.succ_pos p), Nat.add_comm]

theorem cntAfter_of_le {w c p : Nat} (hcp : c ≤ p) (hp : p < 2 ^ w) (n : Nat) : cntAfter w c p n = (c + n) % (p + 1) := by
  have hfirst : firstToggle w c p = p + 1 - c := if_pos hcp
  rw [cntAfter, hfirst]
  split
  · next hbefore => rw [Nat.mod_eq_of_lt (by omega : c + n < 2 ^ w), Nat.mod_eq_of_lt (by omega)]
  · next hafter =>
    have hsum : c + n = n - (p + 1 - c) + (p + 1) := by omega
    rw [hsum, Nat.add_mod_right]

/-- One cycle before the end of cycle `j * (p + 1) - c` the j-th toggle is still to come. -/
theorem toggles_before_edge {c p j : Nat} (hcp : c ≤ p) (hj : 1 ≤ j) : (c + (j * (p + 1) - c - 1)) / (p + 1) = j - 1 := by
  obtain ⟨k, rfl⟩ := Nat.exists_eq_add_of_le' hj
  have hsum : c + ((k + 1) * (p + 1) - c - 1) = p + k * (p + 1) := by rw [Nat.succ_mul]; omega
  rw [hsum, Nat.add_mul_div_right _ _ (Nat.succ_pos p), Nat.div_eq_of_lt (Nat.lt_succ_self p), Nat.zero_add, Nat.add_sub_cancel]

theorem firstToggle_of_lt {w c p : Nat} (hpc : p < c) : firstToggle w c p = 2 ^ w - c + p + 1 := if_neg (by omega)

theorem toggleCount_before {w c p n : Nat} (h : n < firstToggle w c p) : toggleCount w c p n = 0 := if_pos h

theorem cntAfter_before {w c p n : Nat} (h : n < firstToggle w c p) : cntAfter w c p n = (c + n) % 2 ^ w := if_pos h

theorem toggleCount_from (w c p n : Nat) : toggleCount w c p (firstToggle w c p + n) = n / (p + 1) + 1 := by
  rw [toggleCount, if_neg (by omega), Nat.add_sub_cancel_left, Nat.add_comm]

theorem cntAfter_from (w c p n : Nat) : cntAfter w c p (firstToggle w c p + n) = n % (p + 1) := by
  rw [cntAfter, if_neg (by omega), Nat.add_sub_cancel_left]

theorem levelAfter_eq (v : Bit) (k : Nat) : levelAfter v k = if k % 2 = 0 then v else !v := by
  unfold levelAfter
  rcases Nat.mod_two_eq_zero_or_one k with h | h <;> simp [h]

/-! ### `advance` while the generator runs -/

/-- The generator runs with CNT = `c`, PERIOD = `p` and IR = `v`, each within its width. -/
structure CarrierAt (s : State) (c p : Nat) (v : Bit) : Prop where
  enabled : s.en = true
  period : s.period = some p
  counter : s.cnt = some c
  level : s.ir = some v
  periodFits : p < 2 ^ s.cfg.wPeriod
  counterFits : c < 2 ^ s.cfg.wPeriod

section
variable {s : State} {c p : Nat} {v : Bit}

/-- With CNT at most PERIOD, the width of PERIOD is enough. -/
theorem CarrierAt.of_le (hen : s.en = true) (hper : s.period = some p) (hcnt : s.cnt = some c) (hir : s.ir = some v) (hcp : c ≤ p)
    (hp : p < 2 ^ s.cfg.wPeriod) : CarrierAt s c p v :=
  ⟨hen, hper, hcnt, hir, hp, Nat.lt_of_le_of_lt hcp hp⟩

theorem CarrierAt.fits (h : CarrierAt s c p v) : CarrierFits s := by
  constructor
  · rintro _ hp
    cases h.period.symm.trans hp
    exact h.periodFits
  · rintro _ hc
    cases h.counter.symm.trans hc
    exact h.counterFits

/-- With a value in IR any number of cycles completes. -/
theorem CarrierAt.runs (h : CarrierAt s c p v) (n : Nat) : CarrierRuns n s := by
  rw [carrierRuns_running h.enabled h.counter h.period]
  exact .inl (by simp [h.level])

/-- `advance(n)` for a given number of toggles and a given last value of CNT. -/
theorem CarrierAt.advance_eq (h : CarrierAt s c p v) {n k c' : Nat} (hk : toggleCount s.cfg.wPeriod c p n = k)
    (hc' : cntAfter s.cfg.wPeriod c p n = c') :
    advance n s = .ok { s with
      cnt := some c'
      ir := some (if k % 2 = 0 then v else !v)
      flag := if 1 ≤ k then some true else s.flag
      t := s.t + n } := by
  have hflag : (if k = 0 then s.flag else some true) = if 1 ≤ k then some true else s.flag := by
    rcases Nat.eq_zero_or_pos k with rfl | hpos
    · rfl
    · rw [if_neg (Nat.ne_of_gt hpos), if_pos (Nat.succ_le_of_lt hpos)]
  rw [advance_eq_afterCycles h.fits (h.runs n), afterCycles_running h.enabled h.counter h.period, hk, hc', h.level, Option.map_some,
    levelAfter_eq, hflag]

/-- The closed form with CNT at most PERIOD. -/
theorem CarrierAt.advance_of_le (h : CarrierAt s c p v) (hcp : c ≤ p) (n : Nat) :
    advance n s = .ok { s with
      cnt := some ((c + n) % (p + 1))
      ir := some (if (c + n) / (p + 1) % 2 = 0 then v else !v)
      flag := if 1 ≤ (c + n) / (p + 1) then some true else s.flag
      t := s.t + n } :=
  h.advance_eq (toggleCount_of_le hcp n) (cntAfter_of_le hcp h.periodFits n)

/-- Before the first toggle only CNT and T change. -/
theorem CarrierAt.advance_before (h : CarrierAt s c p v) {n : Nat} (hn : n < firstToggle s.cfg.wPeriod c p) :
    advance n s = .ok { s with cnt := some ((c + n) % 2 ^ s.cfg.wPeriod), t := s.t + n } := by
  rw [h.advance_eq (toggleCount_before hn) (cntAfter_before hn), if_pos rfl, if_neg (by decide), ← h.level]

/-- From the first toggle on the closed form starts again at CNT = 0 with IR inverted. -/
theorem CarrierAt.advance_from (h : CarrierAt s c p v) (n : Nat) :
    advance (firstToggle s.cfg.wPeriod c p + n) s = .ok { s with
      cnt := some (n % (p + 1))
      ir := some (if n / (p + 1) % 2 = 0 then !v else v)
      flag := some true
      t := s.t + (firstToggle s.cfg.wPeriod c p + n) } := by
  have hlevel : (if (n / (p + 1) + 1) % 2 = 0 then v else !v) = if n / (p + 1) % 2 = 0 then !v else v := by
    rw [← levelAfter_eq, levelAfter_succ, levelAfter_eq, Bool.not_not]
  rw [h.advance_eq (toggleCount_from ..) (cntAfter_from ..), hlevel, if_pos (Nat.le_add_left 1 _)]

end

/-! ### Toggles, counted cycle by cycle -/

section
variable {s : State} {c p : Nat} {v : Bit}

theorem CarrierAt.drive_eq (h : CarrierAt s c p v) : s.drive = ⟨true, some p, some c, s.flag, some v⟩ := by
  rw [State.drive, h.enabled, h.period, h.counter, h.level]

/-- A `cg_tick` writes CNT, FLAG and IR alone. -/
theorem CarrierAt.setDrive_eq (h : CarrierAt s c p v) (cnt : Held Nat) (flag ir : Held Bit) :
    s.setDrive ⟨true, some p, cnt, flag, ir⟩ = { s with cnt := cnt, flag := flag, ir := ir } := by
  rw [← h.enabled, ← h.period]
  rfl

/-- A cycle at CNT = PERIOD toggles (R117). -/
theorem CarrierAt.cgTick_toggle (h : CarrierAt s p p v) : cgTick s = .ok (((s.setCnt 0).setFlag (some true)).setIr (!v)) := by
  have htick : driveTick s.cfg.wPeriod s.drive = .ok ⟨true, some p, some 0, some true, some (!v)⟩ := by
    rw [h.drive_eq]
    exact if_pos rfl
  rw [cgTick, htick, State.setCnt, Nat.zero_mod]
  exact congrArg Except.ok (h.setDrive_eq ..)

/-- Any other cycle counts (R117). -/
theorem CarrierAt.cgTick_count (h : CarrierAt s c p v) (hne : c ≠ p) : cgTick s = .ok (s.setCnt (c + 1)) := by
  have htick : driveTick s.cfg.wPeriod s.drive = .ok ⟨true, some p, some ((c + 1) % 2 ^ s.cfg.wPeriod), s.flag, s.ir⟩ := by
    rw [h.drive_eq, h.level]
    exact if_neg hne
  rw [cgTick, htick]
  exact congrArg Except.ok (h.setDrive_eq ..)

theorem CarrierAt.toggled (h : CarrierAt s p p v) :
    CarrierAt ((((s.setCnt 0).setFlag (some true)).setIr (!v)).addTime 1) 0 p (!v) :=
  ⟨h.enabled, h.period, congrArg some (Nat.zero_mod _), rfl, h.periodFits, Nat.two_pow_pos _⟩

theorem CarrierAt.counted (h : CarrierAt s c p v) :
    CarrierAt ((s.setCnt (c + 1)).addTime 1) ((c + 1) % 2 ^ s.cfg.wPeriod) p v :=
  ⟨h.enabled, h.period, rfl, h.level, h.periodFits, Nat.mod_lt _ (Nat.two_pow_pos _)⟩

end

/-- The toggles counted one by one are those of the closed form. -/
theorem CarrierAt.togglesIn_eq {s : State} {c p : Nat} {v : Bit} (h : CarrierAt s c p v) (n : Nat) :
    togglesIn n s = toggleCount s.cfg.wPeriod c p n := by
  induction n generalizing s c v with
  | zero => rw [togglesIn, toggleCount_before (firstToggle_pos ..)]
  | succ n ih =>
    rcases Decidable.eq_or_ne c p with rfl | hne
    · have hlevel : some (!v) ≠ s.ir := by rw [h.level]; simp
      rw [togglesIn, h.cgTick_toggle, toggleCount_match]
      exact congrArg₂ (· + ·) (ih h.toggled) (if_neg hlevel)
    · rw [togglesIn, h.cgTick_count hne, toggleCount_count h.counterFits h.periodFits hne]
      exact congrArg₂ (· + ·) (ih h.counted) (if_pos rfl)

/-- Settles O13: the closed form with CNT at most PERIOD, the two sides of the j-th toggle, EN = 0, the closed form with CNT above PERIOD,
and the toggles one by one. -/
theorem advanceHasClosedForm : Obligations.AdvanceHasClosedForm := by
  refine ⟨?_, ?_, ?_, ?_, ?_⟩
  · intro s n p c v hen hper hcnt hir hcp hp
    exact (CarrierAt.of_le hen hper hcnt hir hcp hp).advance_of_le hcp n
  · intro s j p c v hen hper hcnt hir hcp hp hj
    have hat : CarrierAt s c p v := .of_le hen hper hcnt hir hcp hp
    have hpos : p + 1 ≤ j * (p + 1) := Nat.le_mul_of_pos_left _ hj
    have hlast : c + (j * (p + 1) - c) = j * (p + 1) := by omega
    refine ⟨_, _, hat.advance_of_le hcp _, hat.advance_of_le hcp _, ?_, ?_, ?_⟩
    · simp only [toggles_before_edge hcp hj]
    · simp only [hlast, Nat.mul_div_cancel _ (Nat.succ_pos p)]
    · simp only [hlast, Nat.mul_mod_left]
  · intro s n hen
    exact advance_stopped hen n
  · intro s n p c v hen hper hcnt hir hpc hc
    have hat : CarrierAt s c p v := ⟨hen, hper, hcnt, hir, Nat.lt_trans hpc hc, hc⟩
    rw [← firstToggle_of_lt hpc]
    exact ⟨hat.advance_before, hat.advance_from n⟩
  · intro s n p c v hen hper hcnt hir hcp hp
    rw [(CarrierAt.of_le hen hper hcnt hir hcp hp).togglesIn_eq, toggleCount_of_le hcp]

/-! ### The period value (R110) -/

/-- Truncating at each division or once at the end. -/
theorem perval_eq (c : Cfg) : perval c = (c.fClk - c.fTarget) / (2 * c.fTarget) := by
  calc (c.fClk / c.fTarget - 1) / 2
      = (c.fClk - c.fTarget) / c.fTarget / 2 := by rw [← Nat.sub_mul_div, Nat.mul_one]
    _ = (c.fClk - c.fTarget) / (2 * c.fTarget) := by rw [Nat.div_div_eq_div_mul, Nat.mul_comm]

/-- Settles O16: the conditions of R9 exclude the quotient 0 and a PERVAL too wide. -/
theorem periodValueTruncatesAlike : Obligations.PeriodValueTruncatesAlike := by
  refine ⟨fun _ => rfl, perval_cfg0, fun c _ => perval_eq c, fun s hbad => step_of_not_cfgLegal fun hlegal => ?_⟩
  obtain ⟨-, -, hratio, hperiod, -⟩ := cfgLegal_iff.mp hlegal
  rcases hbad with hzero | hwide
  · omega
  · exact absurd hperiod (Nat.not_lt_of_le hwide)

/-! ### The operations of the generator -/

/-- Every operation but DLY and LOOP is its register writes, then OVH clock cycles, then `pc + 1` (R69). -/
theorem exec_eq_finish {i : Instr} (hdly : ∀ imm, i ≠ .dly imm) (hloop : ∀ imm, i ≠ .loop imm) (s : State) :
    exec i s = finish s.cfg.ovh (s.pc + 1) (instrWrites i s) := by
  cases i with
  | dly imm => exact absurd rfl (hdly imm)
  | loop imm => exact absurd rfl (hloop imm)
  | _ => rfl

/-- An operation whose cycles, after its writes, read only registers that hold a value ends in the closed form. -/
theorem finish_eq_afterCycles {s : State} {cycles : Nat} (hfit : CarrierFits s) (hrun : CarrierRuns cycles s) (target : Nat) :
    finish cycles target (.ok s) = .next { afterCycles cycles s with pc := target } := by
  rw [finish, advance_eq_afterCycles hfit hrun]
  rfl

theorem setPeriod_of_lt {s : State} {n : Nat} (h : n < 2 ^ s.cfg.wPeriod) : s.setPeriod n = { s with period := some n } := by
  rw [State.setPeriod, Nat.mod_eq_of_lt h]

/-- Settles O19: PERVAL fits PERIOD under a legal configuration, so the write truncates nothing. -/
theorem ldperStoresPeriodValue : Obligations.LdperStoresPeriodValue := by
  intro s hlegal ⟨_, hcnt⟩ hrun
  have hwrites : instrWrites .ldper s = .ok { s with period := some (perval s.cfg) } :=
    congrArg Except.ok (setPeriod_of_lt hlegal.period)
  have hfit : CarrierFits { s with period := some (perval s.cfg) } := ⟨by rintro _ ⟨⟩; exact hlegal.period, hcnt⟩
  rw [exec_eq_finish (i := .ldper) nofun nofun, hwrites]
  exact finish_eq_afterCycles hfit hrun _

theorem cgenWrites_of_some {s : State} {p : Nat} (h : s.period = some p) :
    cgenWrites s = .ok { s with cnt := some 0, flag := some false, en := true } := by
  simp only [cgenWrites, h, State.setCnt, Nat.zero_mod]
  rfl

theorem cgenWrites_of_none {s : State} (h : s.period = none) : cgenWrites s = .error (.uninit s.pc .period) := by
  simp only [cgenWrites, h]

/-- Settles O20: the read of PERIOD decides between the writes and F_UNINIT. -/
theorem cgenEnablesFromCleanPhase : Obligations.CgenEnablesFromCleanPhase := by
  refine ⟨fun s p hperiod hp hrun => ?_, fun s hnone => ?_⟩
  · have hfit : CarrierFits { s with cnt := some 0, flag := some false, en := true } :=
      ⟨by rintro _ h; cases hperiod.symm.trans h; exact hp, by rintro _ ⟨⟩; exact Nat.two_pow_pos _⟩
    rw [exec_eq_finish (i := .cgen) nofun nofun, instrWrites, cgenWrites_of_some hperiod]
    exact finish_eq_afterCycles hfit hrun _
  · rw [exec_eq_finish (i := .cgen) nofun nofun, instrWrites, cgenWrites_of_none hnone]
    rfl

/-- Settles O21: with EN = 0 after the write the cycles change only T. -/
theorem cgstopLeavesThePinLevel : Obligations.CgstopLeavesThePinLevel := by
  intro s
  rw [exec_eq_finish (i := .cgstop) nofun nofun]
  exact finish_stopped (s := s.setEn false) rfl s.cfg.ovh (s.pc + 1)

/-- Settles O22: the write does not read IR, and the cycles follow it. -/
theorem iroffForcesThePinInactive : Obligations.IroffForcesThePinInactive := by
  intro s hfit hrun
  rw [exec_eq_finish (i := .iroff) nofun nofun]
  exact finish_eq_afterCycles (s := s.setIr inactive) hfit hrun (s.pc + 1)

/-! ### Who writes the generator's registers and IR (R116) -/

/-- The operations that write one of EN, PERIOD, CNT, FLAG and IR (R116). -/
def driveWriters : List Instr := [.ldper, .cgen, .cgstop, .pinidle, .iroff]

theorem instrWrites_drive {i : Instr} {s s₁ : State} (hi : i ∉ driveWriters) (h : instrWrites i s = .ok s₁) : s₁.drive = s.drive := by
  cases i with
  | pincfg => cases h; rfl
  | incb => cases h; rfl
  | loop imm => cases h; rfl
  | dly imm => simp only [instrWrites, dlyWrites] at h; split at h <;> cases h; rfl
  | leda imm => simp only [instrWrites, ledaWrites] at h; cases h; split <;> rfl
  | ledd imm => simp only [instrWrites, leddWrites] at h; cases h; split <;> rfl
  | _ => exact absurd (by decide) hi

/-- What `advance` does to the generator's registers is what as many `cg_tick` do (R118). -/
theorem driveTicks_eq_ok_iff {n : Nat} {s : State} {d : Drive} :
    driveTicks s.cfg.wPeriod n s.drive = .ok d ↔ ∃ s', advance n s = .ok s' ∧ s'.drive = d := by
  cases hen : s.en with
  | false => rw [driveTicks_stopped hen, advance_stopped hen]; simp
  | true =>
    unfold advance
    rw [if_pos hen]
    cases driveTicks s.cfg.wPeriod n s.drive <;> simp

/-- `advance` ends alike, in the generator's registers, from states that agree on them. -/
theorem advance_of_drive_eq {n : Nat} {s s' u : State} (hdrive : s.drive = u.drive) (hcfg : s.cfg = u.cfg)
    (h : advance n s = .ok s') : ∃ u', advance n u = .ok u' ∧ s'.drive = u'.drive := by
  have hticks : driveTicks s.cfg.wPeriod n s.drive = .ok s'.drive := driveTicks_eq_ok_iff.mpr ⟨s', h, rfl⟩
  rw [hdrive, hcfg] at hticks
  obtain ⟨u', hu', hd⟩ := driveTicks_eq_ok_iff.mp hticks
  exact ⟨u', hu', hd.symm⟩

/-- The generator's registers end as the operation's cycles leave them after its writes. -/
theorem exec_drive {i : Instr} {s s' : State} (h : exec i s = .next s') :
    ∃ s₁ s₂, instrWrites i s = .ok s₁ ∧ advance (instrCycles i s.cfg) s₁ = .ok s₂ ∧ s'.drive = s₂.drive := by
  obtain ⟨s₁, s₂, s₃, hwrites, hcycles, htimer, hpc⟩ := exec_next h
  refine ⟨s₁, s₂, hwrites, hcycles, ?_⟩
  rw [hpc, State.drive_setPc]
  rcases htimer with rfl | ⟨-, rfl⟩
  · rfl
  · exact State.drive_setTimer s₂ 0 0

/-- PINIDLE and IROFF write IR = 1 and no other register of the generator (R151, R114). -/
theorem instrWrites_drive_of_idle {i : Instr} {s s₁ : State} (hi : i ∈ [.pinidle, .iroff]) (h : instrWrites i s = .ok s₁) :
    s₁.drive = (s.setIr inactive).drive := by
  simp only [List.mem_cons, List.not_mem_nil, or_false] at hi
  rcases hi with rfl | rfl <;> cases h <;> rfl

/-- LDPER, CGEN and CGSTOP do not write IR (R111 to R113). -/
theorem instrWrites_ir {i : Instr} {s s₁ : State} (hi : i ∈ [.ldper, .cgen, .cgstop]) (h : instrWrites i s = .ok s₁) :
    s₁.ir = s.ir := by
  simp only [List.mem_cons, List.not_mem_nil, or_false] at hi
  rcases hi with rfl | rfl | rfl
  · cases h; rfl
  · simp only [instrWrites, cgenWrites] at h
    split at h <;> cases h
    rfl
  · cases h; rfl

theorem instrCycles_of_mem_driveWriters {i : Instr} (hi : i ∈ driveWriters) (c : Cfg) : instrCycles i c = c.ovh := by
  simp only [driveWriters, List.mem_cons, List.not_mem_nil, or_false] at hi
  rcases hi with rfl | rfl | rfl | rfl | rfl <;> rfl

/-- Settles O33: what the writes of an operation do to the generator's registers, carried through its cycles. -/
theorem onlyTheCarrierOperationsWriteItsRegisters : Obligations.OnlyTheCarrierOperationsWriteItsRegisters := by
  intro i s s' h
  obtain ⟨s₁, s₂, hwrites, hcycles, hend⟩ := exec_drive h
  obtain ⟨hcfg, hpc, -, -⟩ := instrWrites_keeps hwrites
  refine ⟨fun hi => ?_, fun hi => ?_, fun hi => ?_⟩
  · rw [hend]
    exact advance_of_drive_eq (instrWrites_drive hi hwrites) hcfg hcycles
  · rw [instrCycles_of_mem_driveWriters (List.mem_append_right [.ldper, .cgen, .cgstop] hi)] at hcycles
    rw [hend]
    exact advance_of_drive_eq (u := s.setIr inactive) (instrWrites_drive_of_idle hi hwrites) hcfg hcycles
  · rw [instrCycles_of_mem_driveWriters (List.mem_append_left [.pinidle, .iroff] hi)] at hcycles
    exact ⟨s₁, s₂, instrWrites_ir hi hwrites, hcfg, hpc, hcycles, hend⟩

/-! ### Silence (R121) -/

theorem silent_of_drive_eq {s u : State} (h : s.drive = u.drive) (hu : Silent u) : Silent s := by
  obtain ⟨hen, hir⟩ := hu
  exact ⟨(congrArg Drive.en h).trans hen, (congrArg Drive.ir h).trans hir⟩

/-- With EN = 0 no cycle writes IR. -/
theorem advance_silent {s : State} (h : Silent s) (n : Nat) : advance n s = .ok (s.addTime n) := by
  obtain ⟨hen, -⟩ := h
  exact advance_stopped hen n

theorem silent_addTime {s : State} {n : Nat} : Silent (s.addTime n) ↔ Silent s := Iff.rfl

/-- Only CGEN sets EN, and the writes of IR are writes of its inactive level. -/
theorem instrWrites_silent {i : Instr} {s s₁ : State} (hi : i ≠ .cgen) (hs : Silent s) (h : instrWrites i s = .ok s₁) : Silent s₁ := by
  by_cases hmem : i ∈ driveWriters
  · obtain ⟨hen, hir⟩ := hs
    simp only [driveWriters, List.mem_cons, List.not_mem_nil, or_false] at hmem
    rcases hmem with rfl | rfl | rfl | rfl | rfl
    · cases h; exact ⟨hen, hir⟩
    · exact absurd rfl hi
    · cases h; exact ⟨rfl, hir⟩
    · cases h; exact ⟨hen, rfl⟩
    · cases h; exact ⟨hen, rfl⟩
  · exact silent_of_drive_eq (instrWrites_drive hmem h) hs

theorem exec_silent {i : Instr} {s s' : State} (hi : i ≠ .cgen) (hs : Silent s) (h : exec i s = .next s') : Silent s' := by
  obtain ⟨s₁, s₂, hwrites, hcycles, hend⟩ := exec_drive h
  have hsilent : Silent s₁ := instrWrites_silent hi hs hwrites
  rw [advance_silent hsilent] at hcycles
  cases hcycles
  exact silent_of_drive_eq hend (silent_addTime.mpr hsilent)

/-- From EN = 0 IROFF always completes, and the emitter is silent. -/
theorem exec_iroff_stopped {s : State} (h : s.en = false) : ∃ s', exec .iroff s = .next s' ∧ Silent s' := by
  have hstopped : (s.setIr inactive).en = false := h
  rw [exec_eq_finish (i := .iroff) nofun nofun]
  exact ⟨_, finish_stopped hstopped s.cfg.ovh (s.pc + 1), hstopped, rfl⟩

/-- Settles O35: CGSTOP stops the generator from every state, so that nothing can invert IR after the write of IROFF. -/
theorem disableAlwaysSilences : Obligations.DisableAlwaysSilences := by
  refine ⟨fun s => ?_, fun i s s' hi hs h => exec_silent hi hs h⟩
  obtain ⟨s₂, hiroff, hsilent⟩ := exec_iroff_stopped (s := opDone (s.setEn false)) rfl
  exact ⟨_, s₂, cgstopLeavesThePinLevel s, hiroff, hsilent,
    fun n => ⟨s₂.addTime n, advance_silent hsilent n, silent_addTime.mpr hsilent⟩⟩

end Sys2Proof.Proofs
end

/-! PROOF. The net effect of TX (spec 42_transmit.md R141): while the carrier is enabled its cycles compose, so CGEN and the first DLY
together are one on-window of `n_en` cycles of the closed form (R119); CGSTOP freezes it, and the other two operations run with EN = 0. -/

namespace Sys2Proof.Proofs

open Sys2Proof Sys2Proof.Machine Sys2Proof.Laws

/-! ### The cycles of an on-window -/

/-- `advance(m + n)` is `advance(m)`, then `advance(n)` (R118). -/
theorem advance_add {m n : Nat} {s s' : State} (h : advance m s = .ok s') : advance (m + n) s = advance n s' := by
  induction m generalizing s with
  | zero =>
    rw [advance_zero] at h
    cases h
    rw [Nat.zero_add]
  | succ m ih =>
    rw [Nat.succ_add, advance_succ]
    rw [advance_succ] at h
    cases htick : cgTick s with
    | error f => rw [htick] at h; cases h
    | ok u => rw [htick] at h; exact ih h

/-- The state with the register writes of CGEN, before its time passes (R112). -/
def carrierEnabled (s : State) : State := { s with cnt := some 0, flag := some false, en := true }

theorem cgenWrites_eq_carrierEnabled {s : State} {p : Nat} (h : s.period = some p) : cgenWrites s = .ok (carrierEnabled s) :=
  cgenWrites_of_some h

/-- The state `n` cycles after the register writes of CGEN in state `s`, with PERIOD = `p` and IR = `v` there (R119 at CNT = 0). -/
def carrierOn (s : State) (p : Nat) (v : Bit) (n : Nat) : State :=
  { s with
    en := true
    cnt := some (n % (p + 1))
    flag := some (decide (p + 1 ≤ n))
    ir := some (if n / (p + 1) % 2 = 0 then v else !v)
    t := s.t + n }

section
variable {s : State} {p : Nat} {v : Bit}

theorem carrierAt_carrierEnabled (hper : s.period = some p) (hp : p < 2 ^ s.cfg.wPeriod) (hir : s.ir = some v) :
    CarrierAt (carrierEnabled s) 0 p v :=
  .of_le rfl hper rfl hir (Nat.zero_le p) hp

/-- From FLAG = 0, FLAG is set exactly if a whole half-period has passed. -/
theorem flag_of_toggles (p n : Nat) : (if 1 ≤ n / (p + 1) then some true else some false) = some (decide (p + 1 ≤ n)) := by
  have hedge : 1 ≤ n / (p + 1) ↔ p + 1 ≤ n := Nat.one_le_div_iff (Nat.succ_pos p)
  by_cases h : p + 1 ≤ n <;> simp [hedge, h]

/-- `carrierOn` is where the cycles after the writes of CGEN lead. -/
theorem advance_carrierEnabled (hper : s.period = some p) (hp : p < 2 ^ s.cfg.wPeriod) (hir : s.ir = some v) (n : Nat) :
    advance n (carrierEnabled s) = .ok (carrierOn s p v n) := by
  rw [(carrierAt_carrierEnabled hper hp hir).advance_of_le (Nat.zero_le p), Nat.zero_add]
  simp only [carrierEnabled, carrierOn, flag_of_toggles]

/-- More cycles of an on-window make a longer on-window. -/
theorem advance_carrierOn (hper : s.period = some p) (hp : p < 2 ^ s.cfg.wPeriod) (hir : s.ir = some v) (m n : Nat) :
    advance n (carrierOn s p v m) = .ok (carrierOn s p v (m + n)) := by
  rw [← advance_add (advance_carrierEnabled hper hp hir m), advance_carrierEnabled hper hp hir]

/-- CGEN begins an on-window with its own OVH cycles. -/
theorem exec_cgen_carrierOn (hper : s.period = some p) (hp : p < 2 ^ s.cfg.wPeriod) (hir : s.ir = some v) :
    exec .cgen s = .next ((carrierOn s p v s.cfg.ovh).setPc (s.pc + 1)) := by
  rw [exec_eq_finish (i := .cgen) nofun nofun, instrWrites, cgenWrites_eq_carrierEnabled hper, finish,
    advance_carrierEnabled hper hp hir]

/-- A DLY in an on-window adds its cycles to it. -/
theorem exec_dly_carrierOn (hper : s.period = some p) (hp : p < 2 ^ s.cfg.wPeriod) (hir : s.ir = some v) {imm : Operand}
    (himm : imm ≠ 0) (m : Nat) :
    exec (.dly imm) (carrierOn s p v m) =
      .next { carrierOn s p v (m + imm.toNat * s.cfg.k) with dlyUs := 0, dlySub := 0, pc := s.pc + 1 } :=
  exec_dly_of_advance_ok himm (advance_carrierOn hper hp hir m (imm.toNat * s.cfg.k))

end

/-! ### IROFF and DLY with the generator stopped -/

theorem exec_iroff_of_stopped {s : State} (h : s.en = false) :
    exec .iroff s = .next { s with ir := some true, t := s.t + s.cfg.ovh, pc := s.pc + 1 } := by
  rw [exec_eq_finish (i := .iroff) nofun nofun]
  exact finish_stopped (s := s.setIr inactive) h s.cfg.ovh (s.pc + 1)

theorem exec_dly_of_stopped {s : State} (h : s.en = false) {imm : Operand} (himm : imm ≠ 0) :
    exec (.dly imm) s = .next { s with t := s.t + imm.toNat * s.cfg.k, dlyUs := 0, dlySub := 0, pc := s.pc + 1 } :=
  exec_dly_of_advance_ok himm (advance_stopped h _)

/-! ### The five words of TX -/

theorem decode_encode_dly (imm : Operand) : decode (encode (.dly imm)) = .ok (.dly imm) := by
  obtain ⟨hop, himm⟩ : opField (encode (.dly imm)) = 0x07 ∧ immField (encode (.dly imm)) = imm := EncodeFields.dly imm
  rw [decode_dly hop, himm]

theorem decode_encode_txExpansion (on off : Operand) : ∀ i ∈ txExpansion on off, decode (encode i) = .ok i := by
  simp only [txExpansion, List.forall_mem_cons]
  exact ⟨rfl, decode_encode_dly on, rfl, rfl, decode_encode_dly off, List.forall_mem_nil _⟩

/-- TX stands at pc, PERIOD and IR hold a value, and neither time is 0: the premises of R141. -/
structure TxReady (s : State) (on off : Operand) (p : Nat) (v : Bit) : Prop where
  legal : cfgLegal s.cfg = true
  noFault : s.fault = none
  rom : RomHolds s s.pc (txExpansion on off)
  period : s.period = some p
  periodFits : p < 2 ^ s.cfg.wPeriod
  level : s.ir = some v
  onTime : on ≠ 0
  offTime : off ≠ 0

/-- `n_en`: the cycles of CGEN and of the first DLY, for which the carrier is enabled (R141). -/
def enabledCycles (c : Cfg) (on : Operand) : Nat := c.ovh + on.toNat * c.k

/-- The state before IROFF: the on-window has ended in CGSTOP, which leaves the level of IR as it is. -/
def beforeIroff (s : State) (on : Operand) (p : Nat) (v : Bit) : State :=
  { carrierOn s p v (enabledCycles s.cfg on) with
    en := false, dlyUs := 0, dlySub := 0, t := s.t + enabledCycles s.cfg on + s.cfg.ovh, pc := s.pc + 3 }

/-- The state after TX (R141). -/
def txDone (s : State) (on off : Operand) (p : Nat) : State :=
  { s with
    en := false
    ir := some true
    cnt := some (enabledCycles s.cfg on % (p + 1))
    flag := some (decide (p + 1 ≤ enabledCycles s.cfg on))
    dlyUs := 0
    dlySub := 0
    t := s.t + (on.toNat + off.toNat) * s.cfg.k + 3 * s.cfg.ovh
    pc := s.pc + 5 }

section
variable {s : State} {on off : Operand} {p : Nat} {v : Bit}

/-- At word `j` of TX the step is operation `j`: the ROM is still the one TX began with. -/
theorem TxReady.step_next (h : TxReady s on off p v) {u u' : State} {j : Nat} (hj : j < 5) (hcfg : u.cfg = s.cfg)
    (hfault : u.fault = none) (hpc : u.pc = s.pc + j) (hexec : exec ((txExpansion on off)[j]'hj) u = .next u') :
    step u = .next u' := by
  have hlegal : cfgLegal u.cfg = true := hcfg ▸ h.legal
  have hrom : RomHolds u s.pc (txExpansion on off) := by
    unfold RomHolds
    rw [hcfg]
    exact h.rom
  have hdecode : decode (encode ((txExpansion on off)[j]'hj)) = .ok ((txExpansion on off)[j]'hj) :=
    decode_encode_txExpansion on off _ (List.getElem_mem hj)
  rw [step_eq_exec hlegal hfault (fetchDecode_of_romHolds hrom hpc hj hdecode), hexec]

/-- CGEN, DLY, CGSTOP: the on-window and its end. -/
theorem TxReady.run_onWindow (h : TxReady s on off p v) (k : Nat) :
    Host.Core.run Sys2Proof.core (k + 3) s = Host.Core.run Sys2Proof.core k (beforeIroff s on p v) := by
  have hcgen : step s = .next ((carrierOn s p v s.cfg.ovh).setPc (s.pc + 1)) :=
    h.step_next (j := 0) (by decide) rfl h.noFault rfl (exec_cgen_carrierOn h.period h.periodFits h.level)
  have hdly : step ((carrierOn s p v s.cfg.ovh).setPc (s.pc + 1)) =
      .next { carrierOn s p v (enabledCycles s.cfg on) with dlyUs := 0, dlySub := 0, pc := s.pc + 2 } :=
    h.step_next (j := 1) (by decide) rfl h.noFault rfl
      (exec_dly_carrierOn (s := s.setPc (s.pc + 1)) h.period h.periodFits h.level h.onTime s.cfg.ovh)
  have hcgstop : step { carrierOn s p v (enabledCycles s.cfg on) with dlyUs := 0, dlySub := 0, pc := s.pc + 2 } =
      .next (beforeIroff s on p v) :=
    h.step_next (j := 2) (by decide) rfl h.noFault rfl (cgstopLeavesThePinLevel _)
  rw [run_step (k + 2) hcgen, run_step (k + 1) hdly, run_step k hcgstop]

/-- The times of the five operations add up. -/
theorem txTime_eq (s : State) (on off : Operand) :
    s.t + enabledCycles s.cfg on + s.cfg.ovh + s.cfg.ovh + off.toNat * s.cfg.k =
      s.t + (on.toNat + off.toNat) * s.cfg.k + 3 * s.cfg.ovh := by
  rw [enabledCycles, Nat.add_mul]
  omega

/-- IROFF, DLY: EN is 0, so the pin stays where IROFF puts it. -/
theorem TxReady.run_offWindow (h : TxReady s on off p v) :
    Host.Core.run Sys2Proof.core 2 (beforeIroff s on p v) = .next (txDone s on off p) := by
  have hiroff : step (beforeIroff s on p v) = .next { beforeIroff s on p v with
      ir := some true, t := s.t + enabledCycles s.cfg on + s.cfg.ovh + s.cfg.ovh, pc := s.pc + 4 } :=
    h.step_next (j := 3) (by decide) rfl h.noFault rfl (exec_iroff_of_stopped rfl)
  have hdly : step { beforeIroff s on p v with
      ir := some true, t := s.t + enabledCycles s.cfg on + s.cfg.ovh + s.cfg.ovh, pc := s.pc + 4 } = .next (txDone s on off p) := by
    rw [txDone, ← txTime_eq]
    exact h.step_next (j := 4) (by decide) rfl h.noFault rfl (exec_dly_of_stopped rfl h.offTime)
  rw [run_step 1 hiroff, run_step 0 hdly, run_zero]

/-- The whole of TX. -/
theorem TxReady.run_tx (h : TxReady s on off p v) : Host.Core.run Sys2Proof.core 5 s = .next (txDone s on off p) :=
  (h.run_onWindow 2).trans h.run_offWindow

/-- The toggles of the on-window, counted cycle by cycle. -/
theorem TxReady.togglesIn_onWindow (h : TxReady s on off p v) (n : Nat) : togglesIn n (carrierEnabled s) = n / (p + 1) := by
  rw [(carrierAt_carrierEnabled h.period h.periodFits h.level).togglesIn_eq, toggleCount_of_le (Nat.zero_le p), Nat.zero_add]

end

/-- Settles O37: the on-window to the state before IROFF, the off-window from there, and the toggles of the on-window. -/
theorem txHasItsNetEffect : Obligations.TxHasItsNetEffect := by
  intro s on off p v hlegal hfault hrom hperiod hp hir hon hoff
  have hready : TxReady s on off p v := ⟨hlegal, hfault, hrom, hperiod, hp, hir, hon, hoff⟩
  exact ⟨hready.run_tx, ⟨beforeIroff s on p v, hready.run_onWindow 0, rfl⟩, hready.togglesIn_onWindow _⟩

end Sys2Proof.Proofs

/-! PROOF. The sequencer's own operations (spec 43_beacon.md R150 to R155). None but PINIDLE writes a register of the generator, so their
OVH cycles run from the writes as they would have run before them; what is left to each operation is what it writes, and to LOOP where
it leaves pc. -/

namespace Sys2Proof.Proofs

open Sys2Proof Sys2Proof.Machine

/-! ### What the passage of time leaves alone (R118) -/

@[simp] theorem afterCycles_cfg (n : Nat) (s : State) : (afterCycles n s).cfg = s.cfg := by
  unfold afterCycles
  split <;> rfl

@[simp] theorem afterCycles_fault (n : Nat) (s : State) : (afterCycles n s).fault = s.fault := by
  unfold afterCycles
  split <;> rfl

/-! ### Where the cycles run: only the generator's registers decide (R117) -/

theorem carrierFits_of_drive_eq {s u : State} (h : s.drive = u.drive) (hcfg : s.cfg = u.cfg) : CarrierFits s ↔ CarrierFits u := by
  have hperiod : s.period = u.period := congrArg Drive.period h
  have hcnt : s.cnt = u.cnt := congrArg Drive.cnt h
  simp only [CarrierFits, hperiod, hcnt, hcfg]

theorem carrierRuns_of_drive_eq {s u : State} (h : s.drive = u.drive) (hcfg : s.cfg = u.cfg) (n : Nat) :
    CarrierRuns n s ↔ CarrierRuns n u := by
  have hen : s.en = u.en := congrArg Drive.en h
  have hperiod : s.period = u.period := congrArg Drive.period h
  have hcnt : s.cnt = u.cnt := congrArg Drive.cnt h
  have hir : s.ir = u.ir := congrArg Drive.ir h
  simp only [CarrierRuns, hen, hperiod, hcnt, hir, hcfg]

/-! ### Writes, OVH clock cycles, `pc + 1` (R69) -/

/-- An operation other than DLY and LOOP whose writes give `s₁` ends in the closed form of its cycles from there. -/
theorem exec_eq_afterCycles {i : Instr} {s s₁ : State} (hdly : ∀ imm, i ≠ .dly imm) (hloop : ∀ imm, i ≠ .loop imm)
    (hwrites : instrWrites i s = .ok s₁) (hfit : CarrierFits s₁) (hrun : CarrierRuns s.cfg.ovh s₁) :
    exec i s = .next { afterCycles s.cfg.ovh s₁ with pc := s.pc + 1 } := by
  rw [exec_eq_finish hdly hloop, hwrites]
  exact finish_eq_afterCycles hfit hrun (s.pc + 1)

/-- The same for an operation that writes no register of the generator (R116): its cycles run where those of `s` do. -/
theorem exec_of_not_mem_driveWriters {i : Instr} {s s₁ : State} (hdly : ∀ imm, i ≠ .dly imm) (hloop : ∀ imm, i ≠ .loop imm)
    (hi : i ∉ driveWriters) (hwrites : instrWrites i s = .ok s₁) (hfit : CarrierFits s) (hrun : CarrierRuns s.cfg.ovh s) :
    exec i s = .next { afterCycles s.cfg.ovh s₁ with pc := s.pc + 1 } := by
  have hdrive : s₁.drive = s.drive := instrWrites_drive hi hwrites
  have hcfg : s₁.cfg = s.cfg := (instrWrites_keeps hwrites).1
  exact exec_eq_afterCycles hdly hloop hwrites ((carrierFits_of_drive_eq hdrive hcfg).mpr hfit)
    ((carrierRuns_of_drive_eq hdrive hcfg _).mpr hrun)

/-! ### The counter compared with an operand (R153, R154) -/

theorem blinkEquals_iff {s : State} {n : Nat} : blinkEquals s n = true ↔ s.blink = n := decide_eq_true_iff

theorem ledaWrites_of_eq {s : State} {imm : Operand} (h : s.blink = imm.toNat) : ledaWrites imm s = .ok (s.setVled active) :=
  congrArg Except.ok (if_pos (blinkEquals_iff.mpr h))

theorem ledaWrites_of_ne {s : State} {imm : Operand} (h : s.blink ≠ imm.toNat) : ledaWrites imm s = .ok s :=
  congrArg Except.ok (if_neg (mt blinkEquals_iff.mp h))

/-- 0 fits BLINK whatever its width. -/
theorem setBlink_zero (s : State) : s.setBlink 0 = { s with blink := 0 } := by rw [State.setBlink, Nat.zero_mod]

theorem leddWrites_of_eq {s : State} {imm : Operand} (h : s.blink = imm.toNat) :
    leddWrites imm s = .ok { s with vled := some true, blink := 0 } := by
  rw [leddWrites, immNat, if_pos (blinkEquals_iff.mpr h), setBlink_zero]
  rfl

theorem leddWrites_of_ne {s : State} {imm : Operand} (h : s.blink ≠ imm.toNat) : leddWrites imm s = .ok s :=
  congrArg Except.ok (if_neg (mt blinkEquals_iff.mp h))

/-! ### The target of LOOP (R155) -/

theorem loopTarget_eq (imm : Operand) : loopTarget imm = imm.toNat % 32 := BitVec.extractLsb'_toNat 0 5 imm

/-- LOOP writes nothing before its cycles. -/
theorem exec_loop (imm : Operand) (s : State) : exec (.loop imm) s = finish s.cfg.ovh (imm.toNat % 32) (.ok s) :=
  congrArg (fun target => finish s.cfg.ovh target (.ok s)) (loopTarget_eq imm)

/-- A step with pc at or beyond LEN raises F_PC_RANGE at its fetch (R61, R182). -/
theorem step_of_pc_beyond_rom {s : State} (hl : cfgLegal s.cfg = true) (hf : s.fault = none) (hpc : s.cfg.program.length ≤ s.pc) :
    step s = .fault (.pcRange s.pc) :=
  step_of_fetchDecode_error hl hf (fetchDecode_error.mpr (.inl ⟨hpc, rfl⟩))

/-! ### The statements -/

/-- Settles O17: the direction bits are no registers of the generator. -/
theorem pincfgMakesBothPinsOutputs : Obligations.PincfgMakesBothPinsOutputs := by
  intro s hfit hrun
  exact exec_of_not_mem_driveWriters nofun nofun (by decide) rfl hfit hrun

/-- Settles O18: IR is a register of the generator, so the cycles start from the written level and may invert it. -/
theorem pinidlePutsBothPinsInactive : Obligations.PinidlePutsBothPinsInactive := by
  intro s hfit hrun
  have hwrites : instrWrites .pinidle s = .ok { s with vled := some true, ir := some true } := rfl
  exact exec_eq_afterCycles nofun nofun hwrites hfit hrun

/-- Settles O25: the write of BLINK truncates to its width, which is the `mod` of R152. -/
theorem incbCountsModuloWidth : Obligations.IncbCountsModuloWidth := by
  intro s hfit hrun
  exact exec_of_not_mem_driveWriters nofun nofun (by decide) rfl hfit hrun

/-- Settles O26: the comparison of BLINK decides whether VLED is written. -/
theorem ledaLightsOnEquality : Obligations.LedaLightsOnEquality := by
  intro s imm hfit hrun
  have hi : .leda imm ∉ driveWriters := by simp [driveWriters]
  refine ⟨fun heq => ?_, fun hne => ?_⟩
  · exact exec_of_not_mem_driveWriters nofun nofun hi (ledaWrites_of_eq heq) hfit hrun
  · exact exec_of_not_mem_driveWriters nofun nofun hi (ledaWrites_of_ne hne) hfit hrun

/-- Settles O27: the comparison of BLINK decides for both writes at once. -/
theorem leddRestartsOnEquality : Obligations.LeddRestartsOnEquality := by
  intro s imm hfit hrun
  have hi : .ledd imm ∉ driveWriters := by simp [driveWriters]
  refine ⟨fun heq => ?_, fun hne => ?_⟩
  · exact exec_of_not_mem_driveWriters nofun nofun hi (leddWrites_of_eq heq) hfit hrun
  · exact exec_of_not_mem_driveWriters nofun nofun hi (leddWrites_of_ne hne) hfit hrun

/-- Settles O28: the jump is the end of LOOP, and its target is checked by the fetch of the next step. -/
theorem loopJumpsToItsTarget : Obligations.LoopJumpsToItsTarget := by
  intro s imm hfit hrun
  refine ⟨?_, fun hlegal hfault hbeyond => ?_⟩
  · rw [exec_loop]
    exact finish_eq_afterCycles hfit hrun (imm.toNat % 32)
  · refine step_of_pc_beyond_rom (s := { afterCycles s.cfg.ovh s with pc := imm.toNat % 32 }) ?_ ?_ ?_
    · rwa [afterCycles_cfg]
    · rwa [afterCycles_fault]
    · rwa [afterCycles_cfg]

end Sys2Proof.Proofs

/-! PROOF. The faults of a step and their order (spec 60_exceptions.md R182, R187): where an operation leaves pc, so that only the end of
the ROM and LOOP lead beyond it; and which fault each of the checks of a step can raise. -/

namespace Sys2Proof.Proofs

open Sys2Proof Sys2Proof.Machine

/-! ### Where an operation leaves pc (R22) -/

theorem finish_pc {cycles target : Nat} {r : Except Fault State} {s' : State} (h : finish cycles target r = .next s') :
    s'.pc = target := by
  obtain ⟨-, s₂, -, -, rfl⟩ := finish_next h
  exact State.setPc_pc s₂ target

theorem exec_loop_pc {imm : Operand} {s s' : State} (h : exec (.loop imm) s = .next s') : s'.pc = imm.toNat % 32 :=
  finish_pc ((exec_loop imm s).symm.trans h)

theorem exec_pc_of_not_loop {i : Instr} {s s' : State} (hloop : ∀ imm, i ≠ .loop imm) (h : exec i s = .next s') :
    s'.pc = s.pc + 1 := by
  by_cases hdly : ∃ imm, i = .dly imm
  · obtain ⟨imm, rfl⟩ := hdly
    obtain ⟨-, s₂, -, rfl⟩ := execDly_next h
    exact State.setPc_pc _ (s.pc + 1)
  · rw [exec_eq_finish (not_exists.mp hdly) hloop] at h
    exact finish_pc h

/-! ### The fetch beyond the ROM (R182) -/

/-- An instruction is fetched from a word of the ROM. -/
theorem pc_lt_of_fetchDecode {s : State} {i : Instr} (h : fetchDecode s = .ok i) : s.pc < s.cfg.program.length := by
  obtain ⟨w, hw, -⟩ := fetchDecode_ok.mp h
  exact (List.getElem?_eq_some_iff.mp hw).1

/-- Settles O8: the operation that went on was a word of the ROM, which the step keeps, so one that is no LOOP was its last word. -/
theorem fetchBeyondRomFaults : Obligations.FetchBeyondRomFaults := by
  refine ⟨fun s hl hf hpc => step_of_pc_beyond_rom hl hf hpc, fun s s' hstep hbeyond => ?_⟩
  obtain ⟨-, -, i, hfetch, hexec⟩ := step_next hstep
  rw [step_cfg hstep] at hbeyond
  by_cases hloop : ∃ imm, i = .loop imm
  · obtain ⟨imm, rfl⟩ := hloop
    rw [exec_loop_pc hexec] at hbeyond
    exact .inr ⟨imm, hfetch, hbeyond⟩
  · have hword : s.pc < s.cfg.program.length := pc_lt_of_fetchDecode hfetch
    have hnext : s'.pc = s.pc + 1 := exec_pc_of_not_loop (not_exists.mp hloop) hexec
    exact .inl (by omega)

/-! ### The faults of an operation (R184, R185) -/

/-- The writes that can fault are those of DLY, by its operand check, and of CGEN, by its read of PERIOD. -/
theorem instrWrites_error {i : Instr} {s : State} {f : Fault} (h : instrWrites i s = .error f) :
    (i = .dly 0 ∧ f = .dlyZero s.pc) ∨ (i = .cgen ∧ s.period = none ∧ f = .uninit s.pc .period) := by
  cases i with
  | dly imm =>
    by_cases himm : imm = 0
    · subst himm
      cases h
      exact .inl ⟨rfl, rfl⟩
    · cases (dlyWrites_of_ne himm s).symm.trans h
  | cgen =>
    cases hperiod : s.period with
    | none => cases (cgenWrites_of_none hperiod).symm.trans h; exact .inr ⟨rfl, rfl, rfl⟩
    | some p => cases (cgenWrites_of_some hperiod).symm.trans h
  | _ => cases h

/-- An operation faults in its register writes or, if these complete, in its clock cycles (R69). -/
theorem exec_fault {i : Instr} {s : State} {f : Fault} (h : exec i s = .fault f) :
    instrWrites i s = .error f ∨ ∃ s₁, instrWrites i s = .ok s₁ ∧ advance (instrCycles i s.cfg) s₁ = .error f := by
  obtain ⟨t, ht⟩ := exec_shape i s
  rw [ht] at h
  split at h
  · next hwrites => cases h; exact .inl hwrites
  · next s₁ hwrites =>
    split at h
    · next hcycles => cases h; exact .inr ⟨s₁, hwrites, hcycles⟩
    · cases h

/-- DLY 0 faults by its operand check, before any cycle. -/
theorem exec_dly_zero (s : State) : exec (.dly 0) s = .fault (.dlyZero s.pc) := by
  simp only [exec, execDly, dlyWrites_zero]

/-- Every other fault of an operation is F_UNINIT, at the operation's own pc: neither its writes nor the cycles before the fault move it. -/
theorem exec_fault_uninit {i : Instr} {s : State} {f : Fault} (hi : i ≠ .dly 0) (h : exec i s = .fault f) :
    ∃ r, f = .uninit s.pc r := by
  rcases exec_fault h with hwrites | ⟨s₁, hwrites, hcycles⟩
  · rcases instrWrites_error hwrites with ⟨hdly, -⟩ | ⟨-, -, hf⟩
    · exact absurd hdly hi
    · exact ⟨.period, hf⟩
  · obtain ⟨-, hpc, -, -⟩ := instrWrites_keeps hwrites
    obtain ⟨-, hf⟩ := advance_error hcycles
    rwa [hpc] at hf

/-! ### The order of the checks (R187) -/

/-- A step without a recorded fault faults in fetch or decode, or in the operation it decoded. -/
theorem step_fault {s : State} {f : Fault} (hf : s.fault = none) (h : step s = .fault f) :
    fetchDecode s = .error f ∨ ∃ i, fetchDecode s = .ok i ∧ exec i s = .fault f := by
  have hl : cfgLegal s.cfg = true := by
    by_contra hl
    cases (step_of_not_cfgLegal hl).symm.trans h
  cases hd : fetchDecode s with
  | error g => cases (step_of_fetchDecode_error hl hf hd).symm.trans h; exact .inl rfl
  | ok i => exact .inr ⟨i, rfl, (step_eq_exec hl hf hd).symm.trans h⟩

/-- Settles O12: the check that raised the fault is known from the fault's place in the step, and the checks before it passed. -/
theorem faultChecksAreOrdered : Obligations.FaultChecksAreOrdered := by
  intro s f hf h
  rcases step_fault hf h with hfetch | ⟨i, hfetch, hexec⟩
  · exact (fetchDecode_error.mp hfetch).imp_right fun ⟨w, e, hw, hd, hillegal⟩ => ⟨w, hw, .inl ⟨⟨e, hd⟩, hillegal⟩⟩
  · obtain ⟨w, hw, hd⟩ := fetchDecode_ok.mp hfetch
    refine .inr ⟨w, hw, .inr ?_⟩
    by_cases hi : i = .dly 0
    · subst hi
      cases (exec_dly_zero s).symm.trans hexec
      exact .inl ⟨hd, rfl⟩
    · exact .inr ⟨⟨i, hd, hi⟩, exec_fault_uninit hi hexec⟩

end Sys2Proof.Proofs

/-! PROOF. The time an operation takes (spec 70_reset_and_hazards.md R225): T moves in the operation's clock cycles alone. -/

namespace Sys2Proof.Proofs

open Sys2Proof Sys2Proof.Machine

/-- Each of the `n` clock cycles of an `advance` is one unit of T (R118). -/
theorem advance_t {n : Nat} {s s' : State} (h : advance n s = .ok s') : s'.t = s.t + n := by
  obtain ⟨d, rfl, -⟩ := advance_ok h
  rw [State.addTime_t, State.setDrive_t]

/-- Neither the register writes of an operation, nor the timer's counters and pc at its end take time: only its clock cycles do (R69). -/
theorem exec_t {i : Instr} {s s' : State} (h : exec i s = .next s') : s'.t = s.t + instrCycles i s.cfg := by
  obtain ⟨s₁, s₂, s₃, hwrites, hcycles, htimer, hpc⟩ := exec_next h
  obtain ⟨-, -, hwritten, -⟩ := instrWrites_keeps hwrites
  have hended : s₃.t = s₂.t := by
    rcases htimer with rfl | ⟨-, rfl⟩
    · rfl
    · exact State.setTimer_t s₂ 0 0
  rw [hpc, State.setPc_t, hended, advance_t hcycles, hwritten]

/-- Settles O29: `instrCycles` is the table of R225, and a step that goes on is the operation it decoded, with nothing around it. -/
theorem operationsTakeTheirCycles : Obligations.OperationsTakeTheirCycles := by
  refine ⟨fun i s s' hexec => ?_, fun s s' hstep => ?_, rfl, rfl⟩
  · have htime : s'.t = s.t + instrCycles i s.cfg := exec_t hexec
    cases i <;> exact htime
  · obtain ⟨-, -, i, hfetch, hexec⟩ := step_next hstep
    exact ⟨i, hfetch, hexec⟩

end Sys2Proof.Proofs

/-! PROOF. Instructions and their words are in one-to-one correspondence (spec 30_encoding.md R80 to R84, D26): decoding undoes encoding on
every well-formed instruction, and a word that decodes is the encoding of what it decodes to; with the words and the listing that the
spec writes out (R93, 43_beacon.md R170). -/

namespace Sys2Proof.Proofs

open Sys2Proof Sys2Proof.Machine Sys2Proof.Laws

/-! ### From an instruction to its word and back -/

/-- The two fields of an encoded word, whatever the instruction (R80). -/
theorem encode_fields (i : Instr) : opField (encode i) = opcode i ∧ immField (encode i) = operandOf i :=
  EncodeFields.fields_mkWord (opcode i) (operandOf i)

/-- The branch of R83 that the operation code selects finds the operand as it was written; that of LOOP checks it. -/
theorem decode_encode {i : Instr} (hwf : WellFormed i) : decode (encode i) = .ok i := by
  obtain ⟨hop, himm⟩ := encode_fields i
  cases i with
  | dly imm => rw [decode_dly hop, himm]; rfl
  | leda imm => rw [decode_leda hop, himm]; rfl
  | ledd imm => rw [decode_ledd hop, himm]; rfl
  | loop imm => rw [decode_loop hop, himm]; exact if_pos hwf
  | _ => rfl

/-- Settles O1. -/
theorem encodedInstrDecodesToItself : Obligations.EncodedInstrDecodesToItself := fun _ hwf => decode_encode hwf

/-! ### From a word to its instruction and back -/

/-- No operation without operand is a LOOP. -/
theorem wellFormed_of_plainOp {op : OpCode} {i : Instr} (h : plainOp op = some i) : WellFormed i := by
  cases i with
  | loop imm =>
    obtain ⟨hop, -, hmem⟩ := plainOp_some h
    rw [← hop] at hmem
    exact absurd hmem (by decide : (0x0B : OpCode).toNat ∉ plainCodes)
  | _ => trivial

/-- Each branch of R83 that answers an instruction has taken the operand of the word, or checked that it is 0. -/
theorem operand_of_decode {w : OpWord} {i : Instr} (h : decode w = .ok i) : WellFormed i ∧ operandOf i = immField w := by
  rcases opCode_cases (opField w) with hop | hop | hop | hop | ⟨j, hop⟩ | hop
  · rw [decode_dly hop] at h; cases h; exact ⟨trivial, rfl⟩
  · rw [decode_leda hop] at h; cases h; exact ⟨trivial, rfl⟩
  · rw [decode_ledd hop] at h; cases h; exact ⟨trivial, rfl⟩
  · rw [decode_loop hop] at h
    split at h <;> cases h
    exact ⟨‹_›, rfl⟩
  · rw [decode_plain hop] at h
    split at h <;> cases h
    next himm => exact ⟨wellFormed_of_plainOp hop, (plainOp_some hop).2.1.trans himm.symm⟩
  · rw [decode_undefined hop] at h; cases h

/-- Settles O2: the word and the encoding have the same two fields. -/
theorem decodedWordIsItsEncoding : Obligations.DecodedWordIsItsEncoding := by
  intro w i h
  obtain ⟨hwf, himm⟩ := operand_of_decode h
  obtain ⟨hopField, himmField⟩ := encode_fields i
  exact ⟨hwf, word_ext_iff.mpr ⟨hopField.trans (opcode_of_decode h), himmField.trans himm⟩⟩

/-! ### What the spec writes out -/

/-- Settles O5: each written-out word is the encoding of the instruction beside it. -/
theorem writtenOutWordsDecode : Obligations.WrittenOutWordsDecode :=
  ⟨decode_encode (i := .dly 622) trivial, decode_encode (i := .dly 1195) trivial, decode_encode (i := .dly 5994) trivial,
    decode_encode (i := .leda 2000) trivial, decode_encode (i := .ledd 2005) trivial, decode_encode (i := .loop 4) (by decide),
    decode_encode (i := .cgen) trivial, by decide⟩

/-- Settles O52: the assembler's answer for the listing of R170, computed. -/
theorem beaconListingAssemblesToTheRom : Obligations.BeaconListingAssemblesToTheRom :=
  ⟨by decide, rfl, rfl, rfl⟩

end Sys2Proof.Proofs

/-! PROOF. What every operation and every step keeps. The end of an operation is described once (`Completes`): what its register writes
leave (`written`), of which the passage of time moves only the generator's registers and T (spec 20_memory.md R69, 41_carrier.md R118). From
it follow who writes which register (10_state.md sections 2 and 5), the widths, the loaded carrier and the idle timer, and that the sequencer
does not see the phase of the carrier (10_state.md section 7). -/

namespace Sys2Proof.Proofs

open Sys2Proof Sys2Proof.Machine

/-! ### What the passage of time keeps -/

/-- What every clock cycle keeps, every `advance` keeps (R118). -/
theorem advance_keeps {P : State → Prop} (htick : ∀ {s s' : State}, cgTick s = .ok s' → P s → P (s'.addTime 1)) {n : Nat} {s s' : State}
    (h : advance n s = .ok s') (hs : P s) : P s' := by
  induction n generalizing s with
  | zero => rw [advance_zero] at h; cases h; exact hs
  | succ n ih =>
    rw [advance_succ] at h
    cases hcycle : cgTick s with
    | error f => rw [hcycle] at h; cases h
    | ok u => rw [hcycle] at h; exact ih h (htick hcycle hs)

theorem advance_fits {n : Nat} {s s' : State} (h : advance n s = .ok s') (hs : CarrierFits s) : CarrierFits s' :=
  advance_keeps (fun hcycle hfit => carrierFits_addTime.mpr (cgTick_fits hfit hcycle)) h hs

/-- A cycle writes a value to CNT and to IR, or nothing. -/
theorem cgTick_holds {s s' : State} (h : cgTick s = .ok s') : (s.cnt ≠ none → s'.cnt ≠ none) ∧ (s.ir ≠ none → s'.ir ≠ none) := by
  rcases cgTick_ok h with ⟨-, rfl⟩ | ⟨p, v, -, -, -, -, rfl⟩ | ⟨p, c, -, -, -, -, rfl⟩
  · exact ⟨id, id⟩
  · exact ⟨fun _ => Option.some_ne_none _, fun _ => Option.some_ne_none _⟩
  · exact ⟨fun _ => Option.some_ne_none _, id⟩

theorem advance_cnt_ne_none {n : Nat} {s s' : State} (h : advance n s = .ok s') (hs : s.cnt ≠ none) : s'.cnt ≠ none :=
  advance_keeps (P := fun u => u.cnt ≠ none) (fun hcycle => (cgTick_holds hcycle).1) h hs

theorem advance_ir_ne_none {n : Nat} {s s' : State} (h : advance n s = .ok s') (hs : s.ir ≠ none) : s'.ir ≠ none :=
  advance_keeps (P := fun u => u.ir ≠ none) (fun hcycle => (cgTick_holds hcycle).2) h hs

/-! ### What the register writes leave -/

/-- The state the register writes of an operation leave where they do not fault (R150 to R154, R111 to R114, R101). -/
def written : Instr → State → State
  | .pincfg, s => s.setDirs true true
  | .pinidle, s => (s.setVled inactive).setIr inactive
  | .ldper, s => s.setPeriod (perval s.cfg)
  | .cgstop, s => s.setEn false
  | .cgen, s => carrierEnabled s
  | .iroff, s => s.setIr inactive
  | .dly imm, s => s.setTimer imm.toNat 0
  | .incb, s => s.setBlink (s.blink + 1)
  | .leda imm, s => { s with vled := if s.blink = imm.toNat then some active else s.vled }
  | .ledd imm, s =>
    { s with
      vled := if s.blink = imm.toNat then some inactive else s.vled
      blink := if s.blink = imm.toNat then 0 else s.blink }
  | .loop _, s => s

theorem instrWrites_eq_written {i : Instr} {s s₁ : State} (h : instrWrites i s = .ok s₁) : s₁ = written i s := by
  cases i with
  | leda imm =>
    rcases Decidable.eq_or_ne s.blink imm.toNat with heq | hne
    · cases (ledaWrites_of_eq heq).symm.trans h
      simp [written, heq, State.setVled]
    · cases (ledaWrites_of_ne hne).symm.trans h
      simp [written, hne]
  | ledd imm =>
    rcases Decidable.eq_or_ne s.blink imm.toNat with heq | hne
    · cases (leddWrites_of_eq heq).symm.trans h
      simp [written, heq]
    · cases (leddWrites_of_ne hne).symm.trans h
      simp [written, hne]
  | dly imm =>
    rcases Decidable.eq_or_ne imm 0 with rfl | hne
    · cases (dlyWrites_zero s).symm.trans h
    · cases (dlyWrites_of_ne hne s).symm.trans h
      rfl
  | cgen =>
    cases hperiod : s.period with
    | none => cases (cgenWrites_of_none hperiod).symm.trans h
    | some p => cases (cgenWrites_eq_carrierEnabled hperiod).symm.trans h; rfl
  | _ => cases h; rfl

/-! ### Who writes which register (R22, R24, R31, R32) -/

theorem written_blink {i : Instr} (hincb : i ≠ .incb) (hledd : ∀ imm, i ≠ .ledd imm) (s : State) : (written i s).blink = s.blink := by
  cases i with
  | incb => exact absurd rfl hincb
  | ledd imm => exact absurd rfl (hledd imm)
  | _ => rfl

theorem written_vled {i : Instr} (hidle : i ≠ .pinidle) (hled : ∀ imm, i ≠ .leda imm ∧ i ≠ .ledd imm) (s : State) :
    (written i s).vled = s.vled := by
  cases i with
  | pinidle => exact absurd rfl hidle
  | leda imm => exact absurd rfl (hled imm).1
  | ledd imm => exact absurd rfl (hled imm).2
  | _ => rfl

theorem written_dirs {i : Instr} (hcfg : i ≠ .pincfg) (s : State) :
    (written i s).dirLed = s.dirLed ∧ (written i s).dirIr = s.dirIr := by
  cases i with
  | pincfg => exact absurd rfl hcfg
  | _ => exact ⟨rfl, rfl⟩

/-- The one operation that writes the direction bits writes 1 to both. -/
theorem written_dirs_set (i : Instr) (s : State) :
    (s.dirLed = some true → (written i s).dirLed = some true) ∧ (s.dirIr = some true → (written i s).dirIr = some true) := by
  cases i with
  | pincfg => exact ⟨fun _ => rfl, fun _ => rfl⟩
  | _ => exact ⟨id, id⟩

/-- DLY alone writes the timer before its time passes. -/
theorem written_timer {i : Instr} (hdly : ∀ imm, i ≠ .dly imm) (s : State) :
    (written i s).dlyUs = s.dlyUs ∧ (written i s).dlySub = s.dlySub := by
  cases i with
  | dly imm => exact absurd rfl (hdly imm)
  | _ => exact ⟨rfl, rfl⟩

/-! ### The end of an operation -/

/-- Where an operation leaves pc (R22). -/
def nextPc (i : Instr) (pc : Nat) : Nat :=
  match i with
  | .loop imm => imm.toNat % 32
  | _ => pc + 1

theorem exec_pc {i : Instr} {s s' : State} (h : exec i s = .next s') : s'.pc = nextPc i s.pc := by
  cases i with
  | loop imm => exact exec_loop_pc h
  | _ => exact exec_pc_of_not_loop (by nofun) h

/-- Where an operation leaves the timer: DLY clears both counters, no other operation writes them (R25, R26). -/
def timerEnd (i : Instr) (s : State) : Nat × Nat :=
  match i with
  | .dly _ => (0, 0)
  | _ => (s.dlyUs, s.dlySub)

/-- What is known of the state `s'` in which operation `i` from `s` ends: of what its writes left, time moves only CNT, FLAG and IR, and
these only while the generator runs. -/
structure Completes (i : Instr) (s s' : State) : Prop where
  cfg : s'.cfg = s.cfg
  pc : s'.pc = nextPc i s.pc
  fault : s'.fault = s.fault
  timer : (s'.dlyUs, s'.dlySub) = timerEnd i s
  blink : s'.blink = (written i s).blink
  vled : s'.vled = (written i s).vled
  dirLed : s'.dirLed = (written i s).dirLed
  dirIr : s'.dirIr = (written i s).dirIr
  en : s'.en = (written i s).en
  period : s'.period = (written i s).period
  fits : CarrierFits (written i s) → CarrierFits s'
  counted : (written i s).cnt ≠ none → s'.cnt ≠ none
  latched : (written i s).ir ≠ none → s'.ir ≠ none
  stopped : (written i s).en = false → s'.drive = (written i s).drive

theorem exec_timer {i : Instr} {s s' : State} (h : exec i s = .next s') : (s'.dlyUs, s'.dlySub) = timerEnd i s := by
  by_cases hdly : ∃ imm, i = .dly imm
  · obtain ⟨imm, rfl⟩ := hdly
    obtain ⟨-, s₂, -, rfl⟩ := execDly_next h
    rfl
  · have hnot : ∀ imm, i ≠ .dly imm := not_exists.mp hdly
    obtain ⟨s₁, s₂, s₃, hwrites, hcycles, htimer, hpc⟩ := exec_next h
    obtain ⟨hus, hsub⟩ := instrWrites_eq_written hwrites ▸ written_timer hnot s
    obtain ⟨d, rfl, -⟩ := advance_ok hcycles
    have hend : timerEnd i s = (s.dlyUs, s.dlySub) := by
      cases i with
      | dly imm => exact absurd rfl (hnot imm)
      | _ => rfl
    rcases htimer with rfl | ⟨⟨imm, rfl⟩, -⟩
    · rw [hend, hpc]
      exact Prod.ext hus hsub
    · exact absurd rfl (hnot imm)

/-- Every operation that answers a next state ends so, its writes not having faulted. -/
theorem exec_completes {i : Instr} {s s' : State} (h : exec i s = .next s') : Completes i s s' := by
  obtain ⟨s₁, s₂, s₃, hwrites, hcycles, htimer, hpc⟩ := exec_next h
  obtain ⟨-, -, -, hfault⟩ := instrWrites_keeps hwrites
  obtain rfl := instrWrites_eq_written hwrites
  obtain ⟨us, sub, hend⟩ : ∃ us sub, s' = { s₂ with dlyUs := us, dlySub := sub, pc := s'.pc } := by
    rcases htimer with rfl | ⟨-, rfl⟩ <;> exact ⟨_, _, hpc⟩
  have hfits := advance_fits hcycles
  have hcounted := advance_cnt_ne_none hcycles
  have hlatched := advance_ir_ne_none hcycles
  obtain ⟨d, rfl, hen, hperiod, hstopped⟩ := advance_ok hcycles
  exact
    { cfg := exec_cfg h
      pc := exec_pc h
      fault := (congrArg State.fault hend).trans hfault
      timer := exec_timer h
      blink := (congrArg State.blink hend).trans rfl
      vled := (congrArg State.vled hend).trans rfl
      dirLed := (congrArg State.dirLed hend).trans rfl
      dirIr := (congrArg State.dirIr hend).trans rfl
      en := (congrArg State.en hend).trans hen
      period := (congrArg State.period hend).trans hperiod
      fits := by rw [hend]; exact hfits
      counted := by rw [hend]; exact hcounted
      latched := by rw [hend]; exact hlatched
      stopped := fun hoff => (congrArg State.drive hend).trans (hstopped hoff) }

/-- Everything a step can do when it answers a next state. -/
theorem step_completes {s s' : State} (h : step s = .next s') :
    cfgLegal s.cfg = true ∧ s.fault = none ∧ ∃ i, fetchDecode s = .ok i ∧ Completes i s s' := by
  obtain ⟨hl, hf, i, hfetch, hexec⟩ := step_next h
  exact ⟨hl, hf, i, hfetch, exec_completes hexec⟩

/-- Settles O34: the writes leave each register to its writers, and time moves none of them. -/
theorem sequencerRegistersHaveOneWriter : Obligations.SequencerRegistersHaveOneWriter := by
  intro i s s' h
  have hend : Completes i s s' := exec_completes h
  obtain ⟨hsetLed, hsetIr⟩ := written_dirs_set i s
  refine ⟨fun hincb hledd => ?_, fun hidle hled => ?_, fun hcfg => ?_, fun hset => ?_, fun hset => ?_⟩
  · exact hend.blink.trans (written_blink hincb hledd s)
  · exact hend.vled.trans (written_vled hidle hled s)
  · obtain ⟨hled, hir⟩ := written_dirs hcfg s
    exact ⟨hend.dirLed.trans hled, hend.dirIr.trans hir⟩
  · exact hend.dirLed.trans (hsetLed hset)
  · exact hend.dirIr.trans (hsetIr hset)

/-- Settles O31: `nextPc` is the table of R22 and R155. -/
theorem onlyLoopTransfersControl : Obligations.OnlyLoopTransfersControl := by
  intro i s s' h
  have hpc : s'.pc = nextPc i s.pc := exec_pc h
  cases i <;> exact hpc

/-! ### The widths (R12, R21 to R29) -/

/-- A write truncates to the register's width. -/
theorem mod_fits (n w : Nat) : n % 2 ^ w < 2 ^ w := Nat.mod_lt _ (Nat.two_pow_pos w)

theorem written_fits (i : Instr) {s : State} (h : CarrierFits s) : CarrierFits (written i s) := by
  obtain ⟨hperiod, hcnt⟩ := h
  cases i with
  | ldper => exact ⟨by rintro _ ⟨⟩; exact mod_fits _ _, hcnt⟩
  | cgen => exact ⟨hperiod, by rintro _ ⟨⟩; exact Nat.two_pow_pos _⟩
  | _ => exact ⟨hperiod, hcnt⟩

theorem written_blink_fits (i : Instr) {s : State} (h : s.blink < 2 ^ s.cfg.wBlink) : (written i s).blink < 2 ^ s.cfg.wBlink := by
  cases i with
  | incb => exact mod_fits _ _
  | ledd imm =>
    simp only [written]
    split
    · exact Nat.two_pow_pos _
    · exact h
  | _ => exact h

/-- The timer's counters at the end of an operation are those before it or 0. -/
theorem timerEnd_cases (i : Instr) (s : State) : timerEnd i s = (0, 0) ∨ timerEnd i s = (s.dlyUs, s.dlySub) := by
  cases i with
  | dly imm => exact .inl rfl
  | _ => exact .inr rfl

/-- From a word of the ROM pc goes to the next index, at most the ROM's length, or to a LOOP target of 5 bits. -/
theorem nextPc_le {i : Instr} {pc len : Nat} (h : pc < len) : nextPc i pc ≤ max len 31 := by
  cases i with
  | loop imm => exact Nat.le_trans (Nat.le_of_lt_succ (Nat.mod_lt _ (by decide))) (Nat.le_max_right ..)
  | _ => exact Nat.le_trans h (Nat.le_max_left ..)

/-- Settles O42: each register of the next state is a truncated write, a counter of the timer at 0, or what it was. -/
theorem everyStepKeepsTheWidths : Obligations.EveryStepKeepsTheWidths := by
  intro s s' hs hstep
  obtain ⟨hl, -, i, hfetch, hend⟩ := step_completes hstep
  have hlegal : LegalCfg s.cfg := cfgLegal_iff.mp hl
  have htimer : s'.dlyUs < 2 ^ 16 ∧ s'.dlySub < s.cfg.k := by
    rcases timerEnd_cases i s with hzero | hsame
    · obtain ⟨hus, hsub⟩ := Prod.mk.inj (hend.timer.trans hzero)
      rw [hus, hsub]
      exact ⟨by decide, hlegal.calibration⟩
    · obtain ⟨hus, hsub⟩ := Prod.mk.inj (hend.timer.trans hsame)
      rw [hus, hsub]
      exact ⟨hs.dlyUs, hs.dlySub⟩
  have hpc : s'.pc ≤ max s.cfg.program.length 31 := hend.pc ▸ nextPc_le (pc_lt_of_fetchDecode hfetch)
  refine ⟨hend.fits (written_fits i hs.carrier), ?_, htimer.1, ?_, ?_⟩
  · rw [hend.blink, hend.cfg]
    exact written_blink_fits i hs.blink
  · rw [hend.cfg]
    exact htimer.2
  · rw [hend.cfg]
    exact Nat.le_trans hpc (max_le_max_right 31 hlegal.romLength)

/-! ### The carrier is loaded while it runs (R112, R184) -/

/-- The writes of every operation but CGEN leave EN as it is or at 0, and the only write of PERIOD is a write of a value. CGEN has read
PERIOD, and writes CNT before EN. -/
theorem written_loaded {i : Instr} {s s₁ : State} (hwrites : instrWrites i s = .ok s₁) (h : CarrierLoaded s) : CarrierLoaded s₁ := by
  cases i with
  | cgen =>
    cases hperiod : s.period with
    | none => cases (cgenWrites_of_none hperiod).symm.trans hwrites
    | some p =>
      obtain rfl := instrWrites_eq_written hwrites
      exact fun _ => ⟨Option.some_ne_none 0, hperiod ▸ Option.some_ne_none p⟩
  | cgstop => cases hwrites; exact nofun
  | ldper =>
    cases hwrites
    exact fun hen => ⟨(h hen).1, Option.some_ne_none _⟩
  | _ => obtain rfl := instrWrites_eq_written hwrites; exact h

/-- Settles O43: the writes keep the carrier loaded, and its cycles keep EN, PERIOD and a value in CNT. -/
theorem everyStepKeepsTheCarrierLoaded : Obligations.EveryStepKeepsTheCarrierLoaded := by
  intro s s' hs hstep hen
  obtain ⟨-, -, i, -, hexec⟩ := step_next hstep
  obtain ⟨s₁, -, hwrites, -, -⟩ := exec_drive hexec
  have hend : Completes i s s' := exec_completes hexec
  have hloaded : CarrierLoaded (written i s) := instrWrites_eq_written hwrites ▸ written_loaded hwrites hs
  obtain ⟨hcnt, hperiod⟩ := hloaded (hend.en ▸ hen)
  exact ⟨hend.counted hcnt, hend.period ▸ hperiod⟩

/-! ### The timer is idle between operations (R25, R26) -/

theorem Completes.timerIdle {i : Instr} {s s' : State} (h : Completes i s s') (hs : TimerIdle s) : TimerIdle s' := by
  obtain ⟨hus, hsub⟩ := hs
  rcases timerEnd_cases i s with hzero | hsame
  · exact Prod.mk.inj (h.timer.trans hzero)
  · rw [hus, hsub] at hsame
    exact Prod.mk.inj (h.timer.trans hsame)

/-- Settles O44: DLY ends with both counters at 0, and nothing else writes them. -/
theorem everyStepKeepsTheTimerIdle : Obligations.EveryStepKeepsTheTimerIdle := by
  intro s s' hs hstep
  obtain ⟨-, -, i, -, hend⟩ := step_completes hstep
  exact hend.timerIdle hs

/-- Settles O45: in the reset state every register without a value fits, EN is 0 and the counters are 0. -/
theorem resetMeetsTheInvariants : Obligations.ResetMeetsTheInvariants :=
  ⟨reset_rom_wf, ⟨⟨nofun, nofun⟩, by decide, by decide, by decide, by decide⟩, nofun, rfl, rfl⟩

end Sys2Proof.Proofs

/-! PROOF. What the sequencer does not see: the phase of the carrier, the calibration and the clock (spec 10_state.md section 7), and, after
TX, the carrier before it (42_transmit.md section 2). -/

namespace Sys2Proof.Proofs

open Sys2Proof Sys2Proof.Machine

/-- The state with another phase of the carrier, another level of IR, another time and another calibration. -/
def rephased (s : State) (c : Held Nat) (f l : Held Bit) (t k ovh : Nat) : State :=
  { s with cnt := c, flag := f, ir := l, t := t, cfg := { s.cfg with k := k, ovh := ovh } }

section
variable (s : State) (c : Held Nat) (f l : Held Bit) (t k ovh : Nat)

/-- The fetch reads pc and the ROM alone. -/
theorem fetchDecode_rephased : fetchDecode (rephased s c f l t k ovh) = fetchDecode s := rfl

/-- No write of an operation to a register of the sequencer, to EN or to PERIOD reads what differs. -/
theorem written_rephased (i : Instr) :
    (written i (rephased s c f l t k ovh)).blink = (written i s).blink ∧
    (written i (rephased s c f l t k ovh)).en = (written i s).en ∧
    (written i (rephased s c f l t k ovh)).period = (written i s).period ∧
    (written i (rephased s c f l t k ovh)).dirLed = (written i s).dirLed ∧
    (written i (rephased s c f l t k ovh)).dirIr = (written i s).dirIr ∧
    (written i (rephased s c f l t k ovh)).vled = (written i s).vled := by
  cases i <;> exact ⟨rfl, rfl, rfl, rfl, rfl, rfl⟩

theorem timerEnd_rephased (i : Instr) : timerEnd i (rephased s c f l t k ovh) = timerEnd i s := by
  cases i <;> rfl

end

/-- Settles O39: both steps run the same instruction, its writes agree, and time moves none of the registers compared. -/
theorem sequencerIsBlindToThePhase : Obligations.SequencerIsBlindToThePhase := by
  intro s a b c f l t k ovh hstep hstep'
  obtain ⟨-, -, i, hfetch, ha⟩ := step_completes hstep
  obtain ⟨-, -, j, hfetch', hb⟩ := step_completes (s := rephased s c f l t k ovh) hstep'
  rw [fetchDecode_rephased] at hfetch'
  cases hfetch.symm.trans hfetch'
  obtain ⟨hblink, hen, hperiod, hdirLed, hdirIr, hvled⟩ := written_rephased s c f l t k ovh i
  rw [← hb.blink, ← ha.blink] at hblink
  rw [← hb.en, ← ha.en] at hen
  rw [← hb.period, ← ha.period] at hperiod
  rw [← hb.dirLed, ← ha.dirLed] at hdirLed
  rw [← hb.dirIr, ← ha.dirIr] at hdirIr
  rw [← hb.vled, ← ha.vled] at hvled
  obtain ⟨hus, hsub⟩ := Prod.mk.inj ((hb.timer.trans (timerEnd_rephased s c f l t k ovh i)).trans ha.timer.symm)
  exact ⟨ha.pc.trans hb.pc.symm, hblink.symm, hen.symm, hperiod.symm, hdirLed.symm, hdirIr.symm, hvled.symm, hus.symm, hsub.symm,
    ha.fault.trans hb.fault.symm⟩

/-- Settles O38: both states are ready for TX, and where it ends (`txDone`) EN, CNT, FLAG and IR are what TX wrote. -/
theorem txForgetsTheCarrierBefore : Obligations.TxForgetsTheCarrierBefore := by
  intro s on off p v v' e c f hlegal hfault hrom hperiod hp hir hon hoff
  have hready : TxReady s on off p v := ⟨hlegal, hfault, hrom, hperiod, hp, hir, hon, hoff⟩
  have hready' : TxReady { s with en := e, cnt := c, flag := f, ir := some v' } on off p v' :=
    ⟨hlegal, hfault, hrom, hperiod, hp, rfl, hon, hoff⟩
  exact ⟨txDone s on off p, hready.run_tx, hready'.run_tx⟩

end Sys2Proof.Proofs

/-! PROOF. Which word a step runs, and what stops it: the word at pc (spec 60_exceptions.md R187) and the placing of one, the refusal of the
configuration (00_scope.md R9), a recorded fault (10_state.md R35), and the faults of the operations (60_exceptions.md R184, R185). -/

namespace Sys2Proof.Proofs

open Sys2Proof Sys2Proof.Machine

/-! ### The word a step runs -/

/-- Settles O6. -/
theorem stepRunsDecodedInstr : Obligations.StepRunsDecodedInstr := fun _ w _ hl hf hw hd =>
  step_eq_exec hl hf (fetchDecode_ok.mpr ⟨w, hw, hd⟩)

/-- Placing a word inside the ROM replaces that word. -/
theorem romWith_eq_set {rom : List OpWord} {i : Nat} (h : i < rom.length) (w : OpWord) : romWith rom i w = rom.set i w := by
  rw [List.set_eq_take_append_cons_drop, if_pos h, romWith, Nat.sub_eq_zero_of_le h.le]
  simp

theorem romWith_get_of_ne {rom : List OpWord} {i j : Nat} (h : i < rom.length) (hne : j ≠ i) (w : OpWord) :
    (romWith rom i w)[j]? = rom[j]? := by
  rw [romWith_eq_set h, List.getElem?_set_ne hne.symm]

/-- Of the ROM, R9 speaks of its length alone. -/
theorem legalCfg_of_length_eq {c : Cfg} {rom : List OpWord} (hlen : rom.length = c.program.length) (h : LegalCfg c) :
    LegalCfg { c with program := rom } :=
  { clock := h.clock, target := h.target, ratio := h.ratio, period := h.period, calibration := h.calibration, blink := h.blink
    ledOn := h.ledOn, times := h.times, romLength := hlen.trans_le h.romLength, head := h.head.trans_eq hlen.symm }

theorem decode_of_decodeTableWord {n w : Nat} {i : Instr} (h : decodeTableWord n w = some i) : decode (tableWord n w) = .ok i := by
  unfold decodeTableWord at h
  split at h
  · next hd => cases h; exact hd
  · cases h

/-- Settles O7: a word placed inside the ROM keeps the configuration legal, is the one at pc, and moves no other. -/
theorem placedWordRunsNext : Obligations.PlacedWordRunsNext := by
  intro s w i hl hpc hd
  have hlegal : LegalCfg (s.withFetchWord 24 w).cfg := legalCfg_of_length_eq (romWith_length hpc _) (cfgLegal_iff.mp hl)
  have hfetch : fetchDecode (s.withFetchWord 24 w) = .ok i :=
    fetchDecode_ok.mpr ⟨tableWord 24 w, romWith_get s.pc _, decode_of_decodeTableWord hd⟩
  exact ⟨step_eq_exec (cfgLegal_iff.mpr hlegal) rfl hfetch, fun j hj => romWith_get_of_ne hpc hj _⟩

/-! ### What stops a step -/

/-- Settles O10: no operation refuses, and under a legal configuration no step does. -/
theorem noOperationRefuses : Obligations.NoOperationRefuses := by
  refine ⟨exec_ne_refused, fun s r h => ?_⟩
  by_cases hl : cfgLegal s.cfg = true
  · exact absurd h (step_ne_refused hl r)
  · cases (step_of_not_cfgLegal hl).symm.trans h
    rfl

theorem step_of_recorded {s : State} {f : Fault} (hl : cfgLegal s.cfg = true) (hf : s.fault = some f) : step s = .fault f := by
  simp only [step, hl, hf, if_true]

theorem cfgLegal_of_step_fault {s : State} {f : Fault} (h : step s = .fault f) : cfgLegal s.cfg = true := by
  by_contra hl
  cases (step_of_not_cfgLegal hl).symm.trans h

/-- What a recorded state keeps and holds, whatever the fault (R181). -/
theorem recordFault_keeps (s : State) (f : Fault) :
    (recordFault s f).fault = some f ∧ (recordFault s f).pc = s.pc ∧ (recordFault s f).cfg = s.cfg := by
  cases f <;> exact ⟨rfl, rfl, rfl⟩

/-- Settles O11: the recorded fault is looked at before the fetch, and no operation writes it. -/
theorem recordedFaultStops : Obligations.RecordedFaultStops := by
  refine ⟨fun s f => step_of_recorded, fun s s' h => ?_, fun s f h _ => ?_, fun n s f => runTrace_recorded n⟩
  · obtain ⟨-, hf, i, -, hend⟩ := step_completes h
    exact ⟨hf, hend.fault.trans hf⟩
  · obtain ⟨hfault, hpc, hcfg⟩ := recordFault_keeps s f
    exact ⟨hfault, hpc, step_of_recorded (hcfg ▸ cfgLegal_of_step_fault h) hfault⟩

/-! ### Where an operation faults -/

/-- Settles O14: `missingRegister` is the order in which a cycle reads the registers. -/
theorem advanceFaultsOnlyOnMissingValues : Obligations.AdvanceFaultsOnlyOnMissingValues :=
  fun _ _ hfit => ⟨advance_eq_afterCycles hfit, advance_eq_error hfit⟩

/-- An operation whose writes complete and one of whose cycles faults is that fault. -/
theorem exec_of_advance_error {i : Instr} {s s₁ : State} {f : Fault} (hwrites : instrWrites i s = .ok s₁)
    (hcycles : advance (instrCycles i s.cfg) s₁ = .error f) : exec i s = .fault f := by
  obtain ⟨t, ht⟩ := exec_shape i s
  simp only [ht, hwrites, hcycles]

/-- The writes of an operation keep CNT and PERIOD within their width. -/
theorem instrWrites_fits {i : Instr} {s s₁ : State} (hwrites : instrWrites i s = .ok s₁) (h : CarrierFits s) : CarrierFits s₁ :=
  instrWrites_eq_written hwrites ▸ written_fits i h

/-- Settles O30: an operation faults in its writes, which only DLY 0 and CGEN can, or in its cycles, which do where they do not run. -/
theorem operationsFaultOnlyWhereListed : Obligations.OperationsFaultOnlyWhereListed := by
  intro i s hfit
  refine ⟨⟨?_, ?_⟩, fun f h hi => exec_fault_uninit hi h⟩
  · rintro ⟨f, h⟩
    rcases exec_fault h with hwrites | ⟨s₁, hwrites, hcycles⟩
    · rcases instrWrites_error hwrites with ⟨hdly, -⟩ | ⟨hcgen, hperiod, -⟩
      · exact .inl hdly
      · exact .inr (.inl ⟨hcgen, hperiod⟩)
    · refine .inr (.inr ⟨s₁, hwrites, fun hrun => ?_⟩)
      cases (advance_eq_afterCycles (instrWrites_fits hwrites hfit) hrun).symm.trans hcycles
  · rintro (rfl | ⟨rfl, hperiod⟩ | ⟨s₁, hwrites, hrun⟩)
    · exact ⟨_, exec_dly_zero s⟩
    · exact ⟨_, cgenEnablesFromCleanPhase.2 s hperiod⟩
    · exact ⟨_, exec_of_advance_error hwrites (advance_eq_error (instrWrites_fits hwrites hfit) hrun)⟩

end Sys2Proof.Proofs

/-! PROOF. The pins over time (spec 70_reset_and_hazards.md R228): cycle `j` of a trace shows the pins as `j` cycles leave them, so the closed
form of `advance` (41_carrier.md R119) gives the square wave of an on-window, and the state in which the reversed order of `disable` leaves the
emitter on (R215). -/

namespace Sys2Proof.Proofs

open Sys2Proof Sys2Proof.Machine

/-! ### A trace, cycle by cycle -/

/-- Where `n` cycles complete, the trace has `n` entries. -/
theorem cycleTrace_length {n : Nat} {s s' : State} (h : advance n s = .ok s') : (cycleTrace n s).length = n := by
  induction n generalizing s with
  | zero => rfl
  | succ n ih =>
    rw [advance_succ] at h
    cases hcycle : cgTick s with
    | error f => rw [hcycle] at h; cases h
    | ok u =>
      rw [hcycle] at h
      simp only [cycleTrace, hcycle, List.length_cons, ih h]

/-- Entry `j` shows the pins as they stand after `j` cycles, before the `cg_tick` of cycle `j` (R228, log entry 19). -/
theorem cycleTrace_get {n : Nat} {s s' : State} (h : advance n s = .ok s') {j : Nat} (hj : j < n) {u : State}
    (hu : advance j s = .ok u) : (cycleTrace n s)[j]? = some (pins u) := by
  induction n generalizing s j with
  | zero => exact absurd hj (Nat.not_lt_zero j)
  | succ n ih =>
    rw [advance_succ] at h
    cases hcycle : cgTick s with
    | error f => rw [hcycle] at h; cases h
    | ok s₁ =>
      rw [hcycle] at h
      simp only [cycleTrace, hcycle]
      cases j with
      | zero =>
        rw [advance_zero] at hu
        cases hu
        rfl
      | succ j =>
        rw [advance_succ, hcycle] at hu
        exact ih h (Nat.lt_of_succ_lt_succ hj) hu

/-- Settles O15: `j` cycles of the closed form leave the level of the square wave. -/
theorem onWindowTraceIsSquareWave : Obligations.OnWindowTraceIsSquareWave := by
  intro s n p c v hen hper hcnt hir hdir hcp hp
  have hat : CarrierAt s c p v := .of_le hen hper hcnt hir hcp hp
  have hall := hat.advance_of_le hcp n
  refine ⟨cycleTrace_length hall, fun j hj => ?_⟩
  rw [cycleTrace_get hall hj (hat.advance_of_le hcp j)]
  simp only [pins, pinLevel, hdir, Option.map_some]

/-! ### The reversed order of `disable` (R215) -/

theorem finish_of_advance_ok {cycles : Nat} {s s' : State} (h : advance cycles s = .ok s') (target : Nat) :
    finish cycles target (.ok s) = .next (s'.setPc target) := by
  rw [finish, h]

/-- The emitter on, and the counter so far before its match that the last of the OVH cycles of an IROFF toggles the pin. -/
def beforeReversedDisable (ovh : Nat) : State :=
  { State.reset with
    cfg := { cfg0 with ovh := ovh }
    en := true, period := some 255, cnt := some (256 - ovh), dirIr := some true, ir := some active }

theorem carrierAt_iroff_beforeReversedDisable {ovh : Nat} (h : 1 ≤ ovh) :
    CarrierAt ((beforeReversedDisable ovh).setIr inactive) (256 - ovh) 255 inactive :=
  .of_le rfl rfl rfl rfl (by omega) (by decide : 255 < 2 ^ 8)

/-- `ovh` cycles from there end in the first toggle, which turns the emitter on again. -/
theorem advance_beforeReversedDisable {ovh : Nat} (hlow : 1 ≤ ovh) (hhigh : ovh ≤ 255) :
    ∃ s, advance ovh ((beforeReversedDisable ovh).setIr inactive) = .ok s ∧ s.dirIr = some true ∧ s.ir = some active := by
  have htoggle : (256 - ovh + ovh) / (255 + 1) = 1 := by rw [Nat.sub_add_cancel (by omega)]
  refine ⟨_, (carrierAt_iroff_beforeReversedDisable hlow).advance_of_le (by omega) ovh, rfl, ?_⟩
  simp only [htoggle]
  rfl

/-- Settles O36: IROFF's last cycle turns the emitter on again, and CGSTOP leaves the level as it is. -/
theorem reversedDisableCanLeaveEmitterOn : Obligations.ReversedDisableCanLeaveEmitterOn := by
  intro ovh hlow hhigh
  obtain ⟨s, hcycles, hdir, hir⟩ := advance_beforeReversedDisable hlow hhigh
  have hiroff : exec .iroff (beforeReversedDisable ovh) = .next (s.setPc 1) :=
    (exec_eq_finish (i := .iroff) nofun nofun _).trans (finish_of_advance_ok hcycles 1)
  have hwidths : WidthsHold (beforeReversedDisable ovh) :=
    ⟨(carrierAt_iroff_beforeReversedDisable hlow).fits, Nat.two_pow_pos _, Nat.two_pow_pos 16, Nat.succ_pos 7, Nat.zero_le _⟩
  exact ⟨beforeReversedDisable ovh, s.setPc 1, _, rfl, hwidths, ⟨rfl, rfl⟩, hiroff, cgstopLeavesThePinLevel _, rfl, hdir, hir⟩

end Sys2Proof.Proofs

/-! PROOF. The invariant of the beacon (spec 43_beacon.md section 3, 41_carrier.md R123): `BeaconInv` in its two halves, what the sequencer's
registers and what the generator's hold at each word of the reference ROM. Each word's writes take a half to the next word, and the passage of
time keeps both; so every step completes and keeps the whole. -/

namespace Sys2Proof.Proofs

open Sys2Proof Sys2Proof.Machine

/-! ### The words of the reference ROM -/

theorem fetchDecode_beacon {s : State} (hrom : s.cfg.program = referenceProgram) (hpc : s.pc < beaconInstrs.length) :
    fetchDecode s = .ok beaconInstrs[s.pc] := by
  have hlen : s.pc < referenceProgram.length := hpc
  refine fetchDecode_ok.mpr ⟨referenceProgram[s.pc], by rw [hrom, List.getElem?_eq_getElem hlen], ?_⟩
  have hdecode : (referenceProgram.map decode)[s.pc]? = (beaconInstrs.map .ok)[s.pc]? := by rw [referenceProgram_decodes]
  rw [List.getElem?_map, List.getElem?_map, List.getElem?_eq_getElem hlen, List.getElem?_eq_getElem hpc] at hdecode
  exact Option.some.inj hdecode

theorem beaconInstrs_ne_dly_zero : ∀ i ∈ beaconInstrs, i ≠ .dly 0 := by decide

/-- Every CGEN of the beacon comes after LDPER. -/
theorem le_of_beaconInstrs_eq_cgen : ∀ (pc : Nat) (h : pc < beaconInstrs.length), beaconInstrs[pc] = .cgen → 3 ≤ pc := by decide

/-! ### The sequencer's half -/

/-- The value of BLINK from which the LED is lit at word `pc`: at LEDA itself BLINK is one ahead (R176). -/
def litFrom (pc : Nat) : Nat := if pc = 5 then 2001 else 2000

theorem ledShouldBeLit_iff {pc b : Nat} : ledShouldBeLit pc b ↔ ¬ b < litFrom pc := by
  unfold ledShouldBeLit litFrom
  split <;> exact Nat.not_lt.symm

/-- The two conditions of `BeaconInv` on VLED give its value. -/
theorem led_iff {v : Held Bit} {pc b : Nat} :
    (v = some active ↔ ledShouldBeLit pc b) ∧ (v = some inactive ↔ ¬ ledShouldBeLit pc b) ↔ v = some (decide (b < litFrom pc)) := by
  rw [ledShouldBeLit_iff, not_not]
  by_cases hdark : b < litFrom pc
  · rw [decide_eq_true hdark]
    refine ⟨fun ⟨_, hidle⟩ => hidle.mpr hdark, ?_⟩
    rintro rfl
    simp [active, inactive, hdark]
  · rw [decide_eq_false hdark]
    refine ⟨fun ⟨hlit, _⟩ => hlit.mpr hdark, ?_⟩
    rintro rfl
    simp [active, inactive, hdark]

/-- Before the word after INCB the running iteration is not counted yet. -/
theorem not_countedAt_of_lt {pc : Nat} (h : pc < 5) : ¬ countedAt pc := fun ⟨hcounted, _⟩ => Nat.not_le.mpr h hcounted

/-- What the registers of the sequencer hold at word `pc`: the fields of `BeaconInv` on them. -/
structure SequencerAt (pc : Nat) (s : State) : Prop where
  dirs : 1 ≤ pc → s.dirLed = some true ∧ s.dirIr = some true
  blinkStart : pc ≤ 3 → s.blink = 0
  blinkCounted : countedAt pc → 1 ≤ s.blink ∧ s.blink ≤ 2005
  blinkBetween : ¬ countedAt pc → s.blink ≤ 2004
  led : 2 ≤ pc → s.vled = some (decide (s.blink < litFrom pc))

/-- Two words at which the same is said of the sequencer's registers, or less at the second. -/
abbrev SameStage (pc pc' : Nat) : Prop :=
  (1 ≤ pc' → 1 ≤ pc) ∧ (pc' ≤ 3 → pc ≤ 3) ∧ (5 ≤ pc' ∧ pc' ≤ 21 ↔ 5 ≤ pc ∧ pc ≤ 21) ∧ (2 ≤ pc' → 2 ≤ pc) ∧ litFrom pc' = litFrom pc

/-- The words of the beacon that write no register of the sequencer are all but PINCFG, PINIDLE, INCB, LEDA and LEDD. -/
theorem sameStage_next : ∀ (pc : Nat) (h : pc < 23), pc ∉ [0, 1, 4, 5, 21] → SameStage pc (nextPc (beaconInstrs[pc]'h) pc) := by
  decide

section
variable {s u : State} {pc pc' : Nat}

/-- An operation that writes no register of the sequencer. -/
theorem SequencerAt.frame (h : SequencerAt pc s) (hblink : u.blink = s.blink) (hvled : u.vled = s.vled) (hdirLed : u.dirLed = s.dirLed)
    (hdirIr : u.dirIr = s.dirIr) (hstage : SameStage pc pc') : SequencerAt pc' u := by
  obtain ⟨hdirs, hstart, hcounted, hled, hlit⟩ := hstage
  constructor
  · rw [hdirLed, hdirIr]
    exact fun hpc => h.dirs (hdirs hpc)
  · rw [hblink]
    exact fun hpc => h.blinkStart (hstart hpc)
  · rw [hblink]
    exact fun hpc => h.blinkCounted (hcounted.mp hpc)
  · rw [hblink]
    exact fun hpc => h.blinkBetween (mt hcounted.mpr hpc)
  · rw [hvled, hblink, hlit]
    exact fun hpc => h.led (hled hpc)

theorem SequencerAt.pincfg (h : SequencerAt 0 s) : SequencerAt 1 (written .pincfg s) where
  dirs _ := ⟨rfl, rfl⟩
  blinkStart _ := h.blinkStart (by decide)
  blinkCounted hpc := absurd hpc.1 (by decide)
  blinkBetween _ := h.blinkBetween (not_countedAt_of_lt (by decide))
  led hpc := absurd hpc (by decide)

/-- BLINK is still 0, so the LED is not to be lit. -/
theorem SequencerAt.pinidle (h : SequencerAt 1 s) : SequencerAt 2 (written .pinidle s) where
  dirs _ := h.dirs (by decide)
  blinkStart _ := h.blinkStart (by decide)
  blinkCounted hpc := absurd hpc.1 (by decide)
  blinkBetween _ := h.blinkBetween (not_countedAt_of_lt (by decide))
  led _ := by
    have hblink : s.blink = 0 := h.blinkStart (by decide)
    show some inactive = some (decide (s.blink < litFrom 2))
    rw [hblink]
    decide

/-- INCB counts without wrapping, and the LED stays as it is for the LEDA that follows. -/
theorem SequencerAt.incb (hwidth : 2005 < 2 ^ s.cfg.wBlink) (h : SequencerAt 4 s) : SequencerAt 5 (written .incb s) := by
  have hle : s.blink ≤ 2004 := h.blinkBetween (not_countedAt_of_lt (by decide))
  have hblink : (written .incb s).blink = s.blink + 1 := Nat.mod_eq_of_lt (by omega)
  refine ⟨fun _ => h.dirs (by decide), fun hpc => absurd hpc (by decide), fun _ => by omega,
    fun hpc => absurd ⟨by decide, by decide⟩ hpc, fun _ => ?_⟩
  have hled : s.vled = some (decide (s.blink < 2000)) := h.led (by decide)
  show s.vled = some (decide ((written .incb s).blink < 2001))
  have hsame : s.blink < 2000 ↔ s.blink + 1 < 2001 := Nat.succ_lt_succ_iff.symm
  rw [hblink, hled, decide_eq_decide.mpr hsame]

/-- LEDA lights the LED in the iteration that counts 2000. -/
theorem SequencerAt.leda (h : SequencerAt 5 s) : SequencerAt 6 (written (.leda 2000) s) := by
  refine ⟨fun _ => h.dirs (by decide), fun hpc => absurd hpc (by decide), fun _ => h.blinkCounted ⟨by decide, by decide⟩,
    fun hpc => absurd ⟨by decide, by decide⟩ hpc, fun _ => ?_⟩
  have hled : s.vled = some (decide (s.blink < 2001)) := h.led (by decide)
  show (if s.blink = 2000 then some active else s.vled) = some (decide (s.blink < 2000))
  split
  · next heq => rw [heq]; decide
  · next hne =>
    have hsame : s.blink < 2001 ↔ s.blink < 2000 := by omega
    rw [hled, decide_eq_decide.mpr hsame]

/-- LEDD puts the LED out in the iteration that counts 2005, and restarts the counter. -/
theorem SequencerAt.ledd (h : SequencerAt 21 s) : SequencerAt 22 (written (.ledd 2005) s) := by
  have hle : s.blink ≤ 2005 := (h.blinkCounted ⟨by decide, by decide⟩).2
  have hled : s.vled = some (decide (s.blink < 2000)) := h.led (by decide)
  refine ⟨fun _ => h.dirs (by decide), fun hpc => absurd hpc (by decide), fun hpc => absurd hpc.2 (by decide), fun _ => ?_, fun _ => ?_⟩
  · show (if s.blink = 2005 then 0 else s.blink) ≤ 2004
    split <;> omega
  · show (if s.blink = 2005 then some inactive else s.vled) = some (decide ((if s.blink = 2005 then 0 else s.blink) < 2000))
    split
    · decide
    · exact hled

/-- The sequencer's half from each word to the next. -/
theorem SequencerAt.next (hwidth : 2005 < 2 ^ s.cfg.wBlink) {pc : Nat} (hpc : pc < 23) (h : SequencerAt pc s) :
    SequencerAt (nextPc (beaconInstrs[pc]'hpc) pc) (written (beaconInstrs[pc]'hpc) s) :=
  match pc, hpc, h with
  | 0, _, h => h.pincfg
  | 1, _, h => h.pinidle
  | 4, _, h => h.incb hwidth
  | 5, _, h => h.leda
  | 21, _, h => h.ledd
  | 22, _, h | 2, _, h | 3, _, h | 6, _, h | 7, _, h | 8, _, h | 9, _, h | 10, _, h | 11, _, h | 12, _, h | 13, _, h | 14, _, h | 15, _, h
  | 16, _, h | 17, _, h | 18, _, h | 19, _, h | 20, _, h => h.frame rfl rfl rfl rfl (sameStage_next _ _ (by decide))
  | _ + 23, hpc, _ => absurd hpc (by omega)

end

/-! ### The generator's half -/

/-- What the registers of the generator hold at word `pc`: the fields of `BeaconInv` on them. -/
structure GeneratorAt (pc : Nat) (s : State) : Prop where
  period : 3 ≤ pc → s.period = some (perval s.cfg)
  enable : s.en = true ↔ pc ∈ carrierOnAt
  counter : s.en = true → ∃ c, s.cnt = some c ∧ c < 2 ^ s.cfg.wPeriod
  latched : 2 ≤ pc → s.ir ≠ none
  silent : 2 ≤ pc → s.en = false → pc ∉ iroffAt → s.ir = some inactive

/-- Two words at which the same is said of the generator's registers, or less at the second. -/
abbrev SamePhase (pc pc' : Nat) : Prop :=
  (3 ≤ pc' → 3 ≤ pc) ∧ (pc ∈ carrierOnAt ↔ pc' ∈ carrierOnAt) ∧ (2 ≤ pc' → 2 ≤ pc) ∧ (pc ∈ iroffAt → pc' ∈ iroffAt)

/-- The words of the beacon that write no register of the generator. -/
theorem samePhase_next : ∀ (pc : Nat) (h : pc < 23), pc ∉ [1, 2, 3, 6, 8, 9, 11, 13, 14, 16, 18, 19] →
    SamePhase pc (nextPc (beaconInstrs[pc]'h) pc) := by decide

section
variable {s u : State} {pc pc' : Nat}

/-- An operation that writes no register of the generator. -/
theorem GeneratorAt.frame (h : GeneratorAt pc s) (hdrive : u.drive = s.drive) (hcfg : u.cfg = s.cfg) (hphase : SamePhase pc pc') :
    GeneratorAt pc' u := by
  have hen : u.en = s.en := congrArg Drive.en hdrive
  have hperiod : u.period = s.period := congrArg Drive.period hdrive
  have hcnt : u.cnt = s.cnt := congrArg Drive.cnt hdrive
  have hir : u.ir = s.ir := congrArg Drive.ir hdrive
  obtain ⟨hloaded, hon, hlatched, hoff⟩ := hphase
  constructor
  · rw [hperiod, hcfg]
    exact fun hpc => h.period (hloaded hpc)
  · rw [hen]
    exact h.enable.trans hon
  · rw [hen, hcnt, hcfg]
    exact h.counter
  · rw [hir]
    exact fun hpc => h.latched (hlatched hpc)
  · rw [hen, hir]
    exact fun hpc hstopped hnot => h.silent (hlatched hpc) hstopped (mt hoff hnot)

theorem GeneratorAt.pinidle (h : GeneratorAt 1 s) : GeneratorAt 2 (written .pinidle s) where
  period hpc := absurd hpc (by decide)
  enable := h.enable.trans (by decide)
  counter := h.counter
  latched _ := Option.some_ne_none _
  silent _ _ _ := rfl

/-- PERVAL fits PERIOD under a legal configuration (R9). -/
theorem GeneratorAt.ldper (hlegal : LegalCfg s.cfg) (h : GeneratorAt 2 s) : GeneratorAt 3 (written .ldper s) where
  period _ := congrArg some (Nat.mod_eq_of_lt hlegal.period)
  enable := h.enable.trans (by decide)
  counter := h.counter
  latched _ := h.latched (by decide)
  silent _ hstopped _ := h.silent (by decide) hstopped (by decide)

/-- The generator stops; but in STARTUP, where it was stopped already, IROFF follows. -/
theorem GeneratorAt.cgstop (h : GeneratorAt pc s) (hpc : 3 ≤ pc) (hnext : pc + 1 ∉ carrierOnAt)
    (hstart : pc + 1 ∉ iroffAt → pc ∉ carrierOnAt ∧ pc ∉ iroffAt) : GeneratorAt (pc + 1) (written .cgstop s) where
  period _ := h.period hpc
  enable := ⟨nofun, fun hon => absurd hon hnext⟩
  counter := nofun
  latched _ := h.latched (Nat.le_of_succ_le hpc)
  silent _ _ hnot := by
    obtain ⟨hoff, hiroff⟩ := hstart hnot
    exact h.silent (Nat.le_of_succ_le hpc) (Bool.eq_false_iff.mpr (mt h.enable.mp hoff)) hiroff

/-- The generator starts, with PERIOD loaded and CNT at 0. -/
theorem GeneratorAt.cgen (h : GeneratorAt pc s) (hpc : 3 ≤ pc) (hnext : pc + 1 ∈ carrierOnAt) :
    GeneratorAt (pc + 1) (written .cgen s) where
  period _ := h.period hpc
  enable := ⟨fun _ => hnext, fun _ => rfl⟩
  counter _ := ⟨0, rfl, Nat.two_pow_pos _⟩
  latched _ := h.latched (Nat.le_of_succ_le hpc)
  silent _ := nofun

theorem GeneratorAt.iroff (h : GeneratorAt pc s) (hpc : 3 ≤ pc) (hsame : pc ∈ carrierOnAt ↔ pc + 1 ∈ carrierOnAt) :
    GeneratorAt (pc + 1) (written .iroff s) where
  period _ := h.period hpc
  enable := h.enable.trans hsame
  counter := h.counter
  latched _ := Option.some_ne_none _
  silent _ _ _ := rfl

/-- The generator's half from each word to the next. -/
theorem GeneratorAt.next (hlegal : LegalCfg s.cfg) {pc : Nat} (hpc : pc < 23) (h : GeneratorAt pc s) :
    GeneratorAt (nextPc (beaconInstrs[pc]'hpc) pc) (written (beaconInstrs[pc]'hpc) s) :=
  match pc, hpc, h with
  | 1, _, h => h.pinidle
  | 2, _, h => h.ldper hlegal
  | 3, _, h | 8, _, h | 13, _, h | 18, _, h => h.cgstop (by decide) (by decide) (by decide)
  | 6, _, h | 11, _, h | 16, _, h => h.cgen (by decide) (by decide)
  | 9, _, h | 14, _, h | 19, _, h => h.iroff (by decide) (by decide)
  | 0, _, h | 4, _, h | 5, _, h | 7, _, h | 10, _, h | 12, _, h | 15, _, h | 17, _, h | 20, _, h | 21, _, h | 22, _, h =>
    h.frame rfl rfl (samePhase_next _ _ (by decide))
  | _ + 23, hpc, _ => absurd hpc (by omega)

/-- Where the generator runs, PERIOD, CNT and IR hold values within their widths, so that its cycles complete. -/
theorem GeneratorAt.carrierAt (hlegal : LegalCfg s.cfg) (h : GeneratorAt pc s) (hen : s.en = true) :
    ∃ c v, CarrierAt s c (perval s.cfg) v := by
  have hon : ∀ pc ∈ carrierOnAt, 3 ≤ pc := by decide
  have hpc : 3 ≤ pc := hon pc (h.enable.mp hen)
  obtain ⟨c, hcnt, hc⟩ := h.counter hen
  obtain ⟨v, hir⟩ := Option.ne_none_iff_exists'.mp (h.latched (Nat.le_of_succ_le hpc))
  exact ⟨c, v, hen, h.period hpc, hcnt, hir, hlegal.period, hc⟩

end

/-! ### Both halves through a whole operation -/

theorem written_cfg (i : Instr) (s : State) : (written i s).cfg = s.cfg := by cases i <;> rfl

section
variable {i : Instr} {s s' : State} {pc : Nat}

/-- Time moves no register of the sequencer. -/
theorem SequencerAt.of_completes (h : SequencerAt pc (written i s)) (hend : Completes i s s') : SequencerAt pc s' := by
  constructor
  · rw [hend.dirLed, hend.dirIr]
    exact h.dirs
  · rw [hend.blink]
    exact h.blinkStart
  · rw [hend.blink]
    exact h.blinkCounted
  · rw [hend.blink]
    exact h.blinkBetween
  · rw [hend.vled, hend.blink]
    exact h.led

/-- While the generator runs, its cycles keep CNT and IR holding values within their widths; while it is stopped they move nothing. -/
theorem GeneratorAt.of_completes (hlegal : LegalCfg s.cfg) (h : GeneratorAt pc (written i s)) (hend : Completes i s s') :
    GeneratorAt pc s' := by
  have hcfg : (written i s).cfg = s'.cfg := (written_cfg i s).trans hend.cfg.symm
  constructor
  · rw [hend.period, ← hcfg]
    exact h.period
  · rw [hend.en]
    exact h.enable
  · intro hen
    obtain ⟨c, v, hat⟩ := h.carrierAt ((written_cfg i s).symm ▸ hlegal) (hend.en ▸ hen)
    obtain ⟨-, hfits⟩ := hend.fits hat.fits
    obtain ⟨c', hc'⟩ := Option.ne_none_iff_exists'.mp (hend.counted (hat.counter ▸ Option.some_ne_none c))
    exact ⟨c', hc', hfits c' hc'⟩
  · exact fun hpc => hend.latched (h.latched hpc)
  · intro hpc hen hnot
    have hstopped : (written i s).en = false := hend.en ▸ hen
    exact (congrArg Drive.ir (hend.stopped hstopped)).trans (h.silent hpc hstopped hnot)

/-- Writes that do not fault leave `written`. -/
theorem instrWrites_of_no_fault (hdly : i ≠ .dly 0) (hcgen : i = .cgen → s.period ≠ none) : instrWrites i s = .ok (written i s) := by
  cases hwrites : instrWrites i s with
  | error f =>
    rcases instrWrites_error hwrites with ⟨hi, -⟩ | ⟨hi, hperiod, -⟩
    · exact absurd hi hdly
    · exact absurd hperiod (hcgen hi)
  | ok s₁ => rw [instrWrites_eq_written hwrites]

/-- An operation whose writes and cycles complete answers a next state. -/
theorem exec_of_advance_ok {s₁ s₂ : State} (hwrites : instrWrites i s = .ok s₁) (hcycles : advance (instrCycles i s.cfg) s₁ = .ok s₂) :
    ∃ s', exec i s = .next s' := by
  obtain ⟨t, ht⟩ := exec_shape i s
  rw [ht, hwrites]
  dsimp only
  rw [hcycles]
  exact ⟨_, rfl⟩

/-- Cycles complete where the generator is stopped or its registers hold values. -/
theorem advance_completes (h : s.en = true → ∃ c p v, CarrierAt s c p v) (n : Nat) : ∃ s', advance n s = .ok s' := by
  cases hen : s.en with
  | false => exact ⟨_, advance_stopped hen n⟩
  | true =>
    obtain ⟨c, p, v, hat⟩ := h hen
    exact ⟨_, advance_eq_afterCycles hat.fits (hat.runs n)⟩

end

/-! ### The invariant -/

section
variable {s s' : State}

theorem legalCfg_of_inv (h : BeaconInv s) : LegalCfg s.cfg := cfgLegal_iff.mp h.legal

theorem sequencerAt_of_inv (h : BeaconInv s) : SequencerAt s.pc s :=
  ⟨h.dirs, h.blinkStart, h.blinkCounted, h.blinkBetween, fun hpc => led_iff.mp (h.led hpc)⟩

theorem generatorAt_of_inv (h : BeaconInv s) : GeneratorAt s.pc s :=
  ⟨h.period, h.enable, h.counter, h.latched, h.silent⟩

/-- The word a step of the beacon runs. -/
def beaconInstr (h : BeaconInv s) : Instr := beaconInstrs[s.pc]'(Nat.lt_succ_of_le h.pc)

theorem fetchDecode_of_inv (h : BeaconInv s) : fetchDecode s = .ok (beaconInstr h) :=
  fetchDecode_beacon h.rom (Nat.lt_succ_of_le h.pc)

theorem step_of_inv (h : BeaconInv s) : step s = exec (beaconInstr h) s :=
  step_eq_exec h.legal h.noFault (fetchDecode_of_inv h)

/-- pc stays on the words of the ROM: the last of them is the LOOP. -/
theorem nextPc_beacon_le : ∀ (pc : Nat) (h : pc < 23), nextPc (beaconInstrs[pc]'h) pc ≤ 22 := by decide

theorem completes_of_inv (h : BeaconInv s) (hstep : step s = .next s') : Completes (beaconInstr h) s s' :=
  exec_completes (step_of_inv h ▸ hstep)

/-- A step that goes on keeps the invariant: both halves of it, and what is said of every word alike. -/
theorem step_keeps_inv (h : BeaconInv s) (hstep : step s = .next s') : BeaconInv s' := by
  have hpc : s.pc < 23 := Nat.lt_succ_of_le h.pc
  have hend : Completes (beaconInstr h) s s' := completes_of_inv h hstep
  have hseq : SequencerAt s'.pc s' := hend.pc ▸ ((sequencerAt_of_inv h).next h.blinkFits hpc).of_completes hend
  have hgen : GeneratorAt s'.pc s' := hend.pc ▸ ((generatorAt_of_inv h).next (legalCfg_of_inv h) hpc).of_completes (legalCfg_of_inv h) hend
  exact
    { legal := hend.cfg ▸ h.legal
      rom := hend.cfg ▸ h.rom
      head := hend.cfg ▸ h.head
      blinkFits := hend.cfg ▸ h.blinkFits
      noFault := hend.fault.trans h.noFault
      pc := hend.pc ▸ nextPc_beacon_le s.pc hpc
      timer := hend.timerIdle h.timer
      dirs := hseq.dirs
      period := hgen.period
      enable := hgen.enable
      counter := hgen.counter
      latched := hgen.latched
      silent := hgen.silent
      blinkStart := hseq.blinkStart
      blinkCounted := hseq.blinkCounted
      blinkBetween := hseq.blinkBetween
      led := fun hpc' => led_iff.mpr (hseq.led hpc') }

/-- Every step goes on: no word is DLY 0, every CGEN finds PERIOD loaded, and the cycles find the carrier's registers loaded. -/
theorem step_completes_of_inv (h : BeaconInv s) : ∃ s', step s = .next s' := by
  have hpc : s.pc < 23 := Nat.lt_succ_of_le h.pc
  have hwrites : instrWrites (beaconInstr h) s = .ok (written (beaconInstr h) s) :=
    instrWrites_of_no_fault (beaconInstrs_ne_dly_zero _ (List.getElem_mem hpc))
      fun hcgen => h.period (le_of_beaconInstrs_eq_cgen s.pc hpc hcgen) ▸ Option.some_ne_none _
  have hgen : GeneratorAt (nextPc (beaconInstr h) s.pc) (written (beaconInstr h) s) := (generatorAt_of_inv h).next (legalCfg_of_inv h) hpc
  have hlegal : LegalCfg (written (beaconInstr h) s).cfg := (written_cfg _ s).symm ▸ legalCfg_of_inv h
  obtain ⟨s₂, hcycles⟩ := advance_completes
    (fun hen => let ⟨c, v, hat⟩ := hgen.carrierAt hlegal hen; ⟨c, _, v, hat⟩) (instrCycles (beaconInstr h) s.cfg)
  rw [step_of_inv h]
  exact exec_of_advance_ok hwrites hcycles

end

/-! ### The statements -/

/-- Settles O46. -/
theorem beaconNeverFaultsAndKeepsItsInvariant : Obligations.BeaconNeverFaultsAndKeepsItsInvariant := by
  intro s h
  obtain ⟨s', hstep⟩ := step_completes_of_inv h
  exact ⟨s', hstep, step_keeps_inv h hstep⟩

/-- Settles O47: at word 0 with EN = 0 and BLINK = 0 nothing more is asked of the registers. -/
theorem resetMeetsTheBeaconInvariant : Obligations.ResetMeetsTheBeaconInvariant where
  legal := by decide
  rom := rfl
  head := rfl
  blinkFits := by decide
  noFault := rfl
  pc := by decide
  timer := ⟨rfl, rfl⟩
  dirs hpc := absurd hpc (by decide)
  period hpc := absurd hpc (by decide)
  enable := by decide
  counter := nofun
  latched hpc := absurd hpc (by decide)
  silent hpc := absurd hpc (by decide)
  blinkStart _ := rfl
  blinkCounted hpc := absurd hpc.1 (by decide)
  blinkBetween _ := by decide
  led hpc := absurd hpc (by decide)

/-- From the head of the loop on, every word leads to a word of the loop. -/
theorem nextPc_beacon_ge : ∀ (pc : Nat) (h : pc < 23), 4 ≤ pc → 4 ≤ nextPc (beaconInstrs[pc]'h) pc := by decide

/-- Settles O48: RUN_HEAD is 4, and pc goes on within the loop. -/
theorem beaconNeverReturnsToStartup : Obligations.BeaconNeverReturnsToStartup := by
  intro s s' h hmode hstep
  have hend : Completes (beaconInstr h) s s' := completes_of_inv h hstep
  rw [mode_eq_running_iff, h.head] at hmode
  rw [mode_eq_running_iff, hend.cfg, h.head, hend.pc]
  exact nextPc_beacon_ge s.pc (Nat.lt_succ_of_le h.pc) hmode

end Sys2Proof.Proofs

/-! PROOF. One iteration of the beacon (spec 43_beacon.md R172, R173, R178): from the head of the loop INCB and LEDA, three transmissions, LEDD and
LOOP lead to the head again. Its end is written out (`iterated`), so the time and the count of `n` iterations, and the state at the head of
every iteration from reset, are inductions over it. -/

namespace Sys2Proof.Proofs

open Sys2Proof Sys2Proof.Machine

/-- A run of `m + n` steps is the run of the last `n` from where the first `m` end. -/
theorem run_add {m : Nat} {s s' : State} (h : Host.Core.run Sys2Proof.core m s = .next s') (n : Nat) :
    Host.Core.run Sys2Proof.core (m + n) s = Host.Core.run Sys2Proof.core n s' := by
  induction m generalizing s with
  | zero => cases h; rw [Nat.zero_add]
  | succ m ih =>
    obtain ⟨u, hstep, hrest⟩ := run_next h
    rw [Nat.succ_add, run_step _ hstep, ih hrest]

theorem run_keeps_inv {k : Nat} {s s' : State} (h : BeaconInv s) (hrun : Host.Core.run Sys2Proof.core k s = .next s') : BeaconInv s' :=
  run_keeps (fun hstep hu => step_keeps_inv hu hstep) hrun h

/-! ### The states of an iteration -/

/-- Before the first TX, word 6: INCB and LEDA have run. -/
def iterTx (s : State) : State := opDone (written (.leda 2000) (opDone (written .incb s)))

/-- Before LEDD, word 21: the three transmissions have run (R170). -/
def iterLedd (s : State) : State :=
  txDone (txDone (txDone (iterTx s) 622 1195 (perval s.cfg)) 622 1195 (perval s.cfg)) 622 5994 (perval s.cfg)

/-- Before LOOP, word 22. -/
def iterLoop (s : State) : State := opDone (written (.ledd 2005) (iterLedd s))

/-- At the head of the next iteration. -/
def iterated (s : State) : State := ((iterLoop s).addTime s.cfg.ovh).setPc 4

theorem opDone_pc (s : State) : (opDone s).pc = s.pc + 1 := rfl

theorem written_pc (i : Instr) (s : State) : (written i s).pc = s.pc := by cases i <;> rfl

theorem txDone_pc (s : State) (on off : Operand) (p : Nat) : (txDone s on off p).pc = s.pc + 5 := rfl

theorem iterTx_pc (s : State) : (iterTx s).pc = s.pc + 2 := by simp only [iterTx, opDone_pc, written_pc]

theorem iterLedd_pc (s : State) : (iterLedd s).pc = s.pc + 17 := by simp only [iterLedd, txDone_pc, iterTx_pc]

theorem iterLoop_pc (s : State) : (iterLoop s).pc = s.pc + 18 := by simp only [iterLoop, opDone_pc, written_pc, iterLedd_pc]

/-! ### From the head of the loop to the head of the loop -/

/-- The step at a given word of the beacon. -/
theorem step_at_word {s : State} (h : BeaconInv s) {w : Nat} (hpc : s.pc = w) (hw : w < 23) : step s = exec (beaconInstrs[w]'hw) s := by
  subst hpc
  exact step_of_inv h

/-- An operation other than DLY and LOOP after whose writes the generator is stopped. -/
theorem exec_of_stopped {i : Instr} {s : State} (hdly : ∀ imm, i ≠ .dly imm) (hloop : ∀ imm, i ≠ .loop imm)
    (hwrites : instrWrites i s = .ok (written i s)) (hen : (written i s).en = false) : exec i s = .next (opDone (written i s)) := by
  obtain ⟨hcfg, hpc, -, -⟩ := instrWrites_keeps hwrites
  rw [exec_eq_finish hdly hloop, hwrites, finish_stopped hen, opDone, hcfg, hpc]

/-- The words of the three transmissions, with their times after the pulse (R170). -/
def txWords : List (Nat × Operand) := [(6, 1195), (11, 1195), (16, 5994)]

theorem referenceProgram_holds_tx {s : State} (h : s.cfg.program = referenceProgram) {w : Nat} {off : Operand} (hw : (w, off) ∈ txWords) :
    RomHolds s w (txExpansion 622 off) := by
  have hwords : ∀ x ∈ txWords, ∀ j, ∀ hj : j < (txExpansion 622 x.2).length,
      referenceProgram[x.1 + j]? = some (encode (txExpansion 622 x.2)[j]) := by decide
  intro j hj
  rw [h]
  exact hwords _ hw j hj

/-- The times of the beacon are not 0. -/
theorem txWords_off_ne_zero : ∀ x ∈ txWords, x.2 ≠ 0 := by decide

/-- A state at a TX of the beacon is ready for it: the IR pin is inactive there, the generator being stopped. -/
theorem txReady_of_inv {s : State} (h : BeaconInv s) {off : Operand} (hw : (s.pc, off) ∈ txWords) :
    TxReady s 622 off (perval s.cfg) inactive := by
  have hword : ∀ x ∈ txWords, 3 ≤ x.1 ∧ x.1 ∉ carrierOnAt ∧ x.1 ∉ iroffAt := by decide
  obtain ⟨hpc, hoff, hiroff⟩ := hword _ hw
  have hen : s.en = false := Bool.eq_false_iff.mpr (mt h.enable.mp hoff)
  exact
    { legal := h.legal
      noFault := h.noFault
      rom := referenceProgram_holds_tx h.rom hw
      period := h.period hpc
      periodFits := (legalCfg_of_inv h).period
      level := h.silent (Nat.le_of_succ_le hpc) hen hiroff
      onTime := by decide
      offTime := txWords_off_ne_zero _ hw }

section
variable {s : State}

/-- At the head of the loop the emitter is silent (R178). -/
theorem silent_of_head (h : BeaconInv s) (hpc : s.pc = 4) : Silent s := by
  have hen : s.en = false := Bool.eq_false_iff.mpr (mt h.enable.mp (by rw [hpc]; decide))
  exact ⟨hen, h.silent (by omega) hen (by rw [hpc]; decide)⟩

/-- At the head of the loop LEDD has restarted the counter. -/
theorem blink_le_of_head (h : BeaconInv s) (hpc : s.pc = 4) : s.blink ≤ 2004 :=
  h.blinkBetween (not_countedAt_of_lt (by omega))

theorem run_iterTx (h : BeaconInv s) (hpc : s.pc = 4) : Host.Core.run Sys2Proof.core 2 s = .next (iterTx s) := by
  obtain ⟨hen, -⟩ := silent_of_head h hpc
  have hincb : step s = .next (opDone (written .incb s)) :=
    (step_at_word h hpc (by decide)).trans (exec_of_stopped nofun nofun rfl hen)
  have hafter : BeaconInv (opDone (written .incb s)) := step_keeps_inv h hincb
  have hleda : step (opDone (written .incb s)) = .next (iterTx s) :=
    (step_at_word hafter (congrArg (· + 1) hpc) (by decide)).trans
      (exec_of_stopped (i := .leda 2000) nofun nofun (instrWrites_of_no_fault nofun nofun) hen)
  rw [run_step 1 hincb, run_step 0 hleda, run_zero]

/-- A transmission of the beacon leads to the word after it. -/
theorem run_tx_of_inv (h : BeaconInv s) {w : Nat} (hpc : s.pc = w) {off : Operand} (hw : (w, off) ∈ txWords) :
    Host.Core.run Sys2Proof.core 5 s = .next (txDone s 622 off (perval s.cfg)) ∧
      BeaconInv (txDone s 622 off (perval s.cfg)) ∧ (txDone s 622 off (perval s.cfg)).pc = w + 5 := by
  subst hpc
  have hrun := (txReady_of_inv h hw).run_tx
  exact ⟨hrun, run_keeps_inv h hrun, rfl⟩

/-- The three transmissions, each from where the one before it ends. -/
theorem run_iterLedd (h : BeaconInv (iterTx s)) (hpc : (iterTx s).pc = 6) :
    Host.Core.run Sys2Proof.core 15 (iterTx s) = .next (iterLedd s) := by
  obtain ⟨hfirst, hinv, hpc⟩ := run_tx_of_inv h hpc (off := 1195) (by decide)
  obtain ⟨hsecond, hinv, hpc⟩ := run_tx_of_inv hinv hpc (off := 1195) (by decide)
  obtain ⟨hthird, -, -⟩ := run_tx_of_inv hinv hpc (off := 5994) (by decide)
  rw [run_add (m := 5) hfirst 10, run_add (m := 5) hsecond 5]
  exact hthird

theorem step_iterLedd (h : BeaconInv (iterLedd s)) (hpc : (iterLedd s).pc = 21) : step (iterLedd s) = .next (iterLoop s) :=
  (step_at_word h hpc (by decide)).trans
    (exec_of_stopped (i := .ledd 2005) nofun nofun (instrWrites_of_no_fault nofun nofun) rfl)

theorem step_iterLoop (h : BeaconInv (iterLoop s)) (hpc : (iterLoop s).pc = 22) : step (iterLoop s) = .next (iterated s) := by
  rw [step_at_word h hpc (by decide)]
  exact (exec_loop 4 (iterLoop s)).trans (finish_stopped rfl s.cfg.ovh 4)

/-- The eighteen operations before the LOOP. -/
theorem run_iterLoop (h : BeaconInv s) (hpc : s.pc = 4) : Host.Core.run Sys2Proof.core 18 s = .next (iterLoop s) := by
  have htx := run_iterTx h hpc
  have hpc' : (iterTx s).pc = 6 := by rw [iterTx_pc, hpc]
  have hledd := run_iterLedd (run_keeps_inv h htx) hpc'
  have hstep := step_iterLedd (run_keeps_inv (run_keeps_inv h htx) hledd) (by rw [iterLedd_pc, hpc])
  rw [run_add (m := 2) htx 16, run_add (m := 15) hledd 1, run_step 0 hstep, run_zero]

/-- The LOOP of an iteration. -/
theorem step_loop_of_head (h : BeaconInv s) (hpc : s.pc = 4) :
    BeaconInv (iterLoop s) ∧ (iterLoop s).pc = 22 ∧ step (iterLoop s) = .next (iterated s) := by
  have hinv : BeaconInv (iterLoop s) := run_keeps_inv h (run_iterLoop h hpc)
  have hpc' : (iterLoop s).pc = 22 := by rw [iterLoop_pc, hpc]
  exact ⟨hinv, hpc', step_iterLoop hinv hpc'⟩

/-- An iteration: nineteen operations from the head of the loop to the head of the loop. -/
theorem run_iterated (h : BeaconInv s) (hpc : s.pc = 4) : Host.Core.run Sys2Proof.core 19 s = .next (iterated s) := by
  obtain ⟨-, -, hstep⟩ := step_loop_of_head h hpc
  rw [run_add (m := 18) (run_iterLoop h hpc) 1, run_step 0 hstep, run_zero]

/-! ### What an iteration leaves -/

theorem inv_iterated (h : BeaconInv s) (hpc : s.pc = 4) : BeaconInv (iterated s) := run_keeps_inv h (run_iterated h hpc)

/-- R173: four operations of OVH cycles, three transmissions of three each, and the six times. -/
theorem iterated_t (s : State) : (iterated s).t = s.t + (10250 * s.cfg.k + 13 * s.cfg.ovh) := by
  show s.t + s.cfg.ovh + s.cfg.ovh + (622 + 1195) * s.cfg.k + 3 * s.cfg.ovh + (622 + 1195) * s.cfg.k + 3 * s.cfg.ovh
    + (622 + 5994) * s.cfg.k + 3 * s.cfg.ovh + s.cfg.ovh + s.cfg.ovh = _
  omega

/-- BLINK counts modulo 2005. -/
theorem iterated_blink (h : BeaconInv s) (hpc : s.pc = 4) : (iterated s).blink = (s.blink + 1) % 2005 := by
  have hle : s.blink ≤ 2004 := blink_le_of_head h hpc
  have hwidth := h.blinkFits
  have hcounted : (s.blink + 1) % 2 ^ s.cfg.wBlink = s.blink + 1 := Nat.mod_eq_of_lt (by omega)
  show (if (s.blink + 1) % 2 ^ s.cfg.wBlink = 2005 then 0 else (s.blink + 1) % 2 ^ s.cfg.wBlink) = _
  rw [hcounted]
  split <;> omega

end

/-! ### `run_iter` -/

/-- Whether an instruction is a LOOP. -/
def isLoop : Instr → Bool
  | .loop _ => true
  | _ => false

theorem atLoop_of_inv {s : State} (h : BeaconInv s) : atLoop s = isLoop (beaconInstr h) := by
  unfold atLoop
  rw [fetchDecode_of_inv h]
  cases beaconInstr h <;> rfl

/-- LOOP is the last word of the beacon, and no other. -/
theorem isLoop_beacon : ∀ (pc : Nat) (h : pc < 23), isLoop (beaconInstrs[pc]'h) = decide (pc = 22) := by decide

theorem atLoop_iff {s : State} (h : BeaconInv s) : atLoop s = decide (s.pc = 22) := by
  rw [atLoop_of_inv h]
  exact isLoop_beacon s.pc (Nat.lt_succ_of_le h.pc)

theorem nextPc_beacon_of_lt : ∀ (pc : Nat) (h : pc < 23), pc < 22 → nextPc (beaconInstrs[pc]'h) pc = pc + 1 := by decide

/-- One step of `run_iter`. -/
theorem runIter_step {s s' : State} (h : BeaconInv s) (hstep : step s = .next s') (fuel k : Nat) :
    runIter (fuel + 1) (k + 1) s = runIter fuel (if s.pc = 22 then k else k + 1) s' := by
  rw [runIter.eq_def]
  simp only [h.noFault, hstep, atLoop_iff h, decide_eq_true_eq]

/-- `run_iter` up to the next LOOP is a run. -/
theorem runIter_of_run {m : Nat} {s s' : State} (h : BeaconInv s) (hpc : s.pc + m = 22)
    (hrun : Host.Core.run Sys2Proof.core m s = .next s') (fuel k : Nat) :
    runIter (fuel + m) (k + 1) s = runIter fuel (k + 1) s' := by
  induction m generalizing s with
  | zero => cases hrun; rfl
  | succ m ih =>
    obtain ⟨u, hstep, hrest⟩ := run_next hrun
    have hnext : u.pc = s.pc + 1 :=
      (completes_of_inv h hstep).pc.trans (nextPc_beacon_of_lt s.pc (Nat.lt_succ_of_le h.pc) (by omega))
    rw [← Nat.add_assoc, runIter_step h hstep, if_neg (by omega)]
    exact ih (step_keeps_inv h hstep) (by omega) hrest

/-- `run_iter` over one iteration. -/
theorem runIter_iterated {s : State} (h : BeaconInv s) (hpc : s.pc = 4) (fuel k : Nat) :
    runIter (fuel + 19) (k + 1) s = runIter fuel k (iterated s) := by
  obtain ⟨hinv, hloop, hstep⟩ := step_loop_of_head h hpc
  calc runIter (fuel + 1 + 18) (k + 1) s
      = runIter (fuel + 1) (k + 1) (iterLoop s) := runIter_of_run h (by omega) (run_iterLoop h hpc) (fuel + 1) k
    _ = runIter fuel k (iterated s) := by rw [runIter_step hinv hstep, if_pos hloop]

/-- Settles O49, by induction on the number of iterations. -/
theorem beaconIterationsKeepTimeAndCount : Obligations.BeaconIterationsKeepTimeAndCount := by
  intro n
  induction n with
  | zero =>
    intro s h hpc
    have hle : s.blink ≤ 2004 := blink_le_of_head h hpc
    exact ⟨s, rfl, h, hpc, by omega, by omega, silent_of_head h hpc⟩
  | succ n ih =>
    intro s h hpc
    obtain ⟨s', hrun, hinv, hpc', htime, hblink, hsilent⟩ := ih (iterated s) (inv_iterated h hpc) rfl
    have hcfg : (iterated s).cfg = s.cfg := run_cfg (run_iterated h hpc)
    refine ⟨s', ?_, hinv, hpc', ?_, ?_, hsilent⟩
    · rw [Nat.mul_succ, runIter_iterated h hpc, hrun]
    · rw [htime, hcfg, iterated_t, Nat.succ_mul n]
      omega
    · rw [hblink, iterated_blink h hpc]
      omega

/-! ### From reset -/

/-- What holds after `i` iterations from reset: the invariant at the head of the loop, with the time, the count, and the phase in which the last
transmission left the carrier. -/
structure HeadAfter (i : Nat) (s : State) : Prop where
  inv : BeaconInv s
  pc : s.pc = 4
  cfg : s.cfg = cfg0
  blink : s.blink = i % 2005
  time : s.t = 82000 * i
  cnt : s.cnt = if i = 0 then none else some 41
  flag : s.flag = if i = 0 then none else some true

/-- STARTUP leads from reset to the head of the loop (R46). -/
theorem run_reset : Host.Core.run Sys2Proof.core 4 State.reset = .next (startupDone cfg0) :=
  run_startup (cfg0_withOvh_legal 0) (referenceProgram_holds_startup rfl)

theorem headAfter_zero : HeadAfter 0 (startupDone cfg0) :=
  ⟨run_keeps_inv resetMeetsTheBeaconInvariant run_reset, rfl, rfl, rfl, rfl, rfl, rfl⟩

/-- The last transmission of an iteration enables the carrier for `n_en` cycles (R141). -/
theorem iterated_phase (s : State) :
    (iterated s).cnt = some (enabledCycles s.cfg 622 % (perval s.cfg + 1)) ∧
      (iterated s).flag = some (decide (perval s.cfg + 1 ≤ enabledCycles s.cfg 622)) := ⟨rfl, rfl⟩

theorem headAfter_succ {i : Nat} {s : State} (h : HeadAfter i s) : HeadAfter (i + 1) (iterated s) := by
  obtain ⟨hcnt, hflag⟩ := iterated_phase s
  have hblink := iterated_blink h.inv h.pc
  have htime := iterated_t s
  rw [h.cfg] at hcnt hflag htime
  have hcfg : (iterated s).cfg = cfg0 := (run_cfg (run_iterated h.inv h.pc)).trans h.cfg
  refine ⟨inv_iterated h.inv h.pc, rfl, hcfg, ?_, ?_, hcnt.trans ?_, hflag.trans ?_⟩
  · rw [hblink, h.blink]
    omega
  · rw [htime, h.time]
    show 82000 * i + (10250 * 8 + 13 * 0) = _
    omega
  · rw [if_neg (Nat.succ_ne_zero i)]
    decide
  · rw [if_neg (Nat.succ_ne_zero i)]
    decide

theorem run_headAfter (i : Nat) : ∃ s, Host.Core.run Sys2Proof.core (4 + 19 * i) State.reset = .next s ∧ HeadAfter i s := by
  induction i with
  | zero => exact ⟨_, run_reset, headAfter_zero⟩
  | succ i ih =>
    obtain ⟨s, hrun, hhead⟩ := ih
    refine ⟨iterated s, ?_, headAfter_succ hhead⟩
    rw [Nat.mul_succ, ← Nat.add_assoc, run_add hrun, run_iterated hhead.inv hhead.pc]

/-- Settles O50: what R178 says of EN, IR, PERIOD, the directions, the timer and the LED is the invariant at word 4. -/
theorem headOfEveryIteration : Obligations.HeadOfEveryIteration := by
  intro i
  obtain ⟨s, hrun, h⟩ := run_headAfter i
  obtain ⟨hen, hir⟩ := silent_of_head h.inv h.pc
  obtain ⟨hus, hsub⟩ := h.inv.timer
  obtain ⟨hdirLed, hdirIr⟩ := h.inv.dirs (by rw [h.pc]; decide)
  have hperiod : s.period = some (perval s.cfg) := h.inv.period (by rw [h.pc]; decide)
  have hled : s.vled = some (decide (s.blink < litFrom s.pc)) := (sequencerAt_of_inv h.inv).led (by rw [h.pc]; decide)
  refine ⟨s, hrun, h.pc, hen, hir, ?_, hdirLed, hdirIr, hus, hsub, h.cnt, h.flag, ?_, h.blink, h.time⟩
  · rw [hperiod, h.cfg, perval_cfg0]
  · rw [hled, h.blink, h.pc]
    show some (decide (i % 2005 < 2000)) = _
    rcases Nat.lt_or_ge (i % 2005) 2000 with hdark | hlit
    · rw [decide_eq_true hdark, if_neg (Nat.not_le.mpr hdark)]
    · rw [decide_eq_false (Nat.not_lt.mpr hlit), if_pos hlit]

end Sys2Proof.Proofs

/-! PROOF. The pins over one iteration of the beacon, cycle by cycle (spec 43_beacon.md R174, R176, 70_reset_and_hazards.md R228): with OVH = 0 only
the DLYs take time, so the trace of a transmission is the square wave of its on-window and the forced level of its off-window, and the trace
of the iteration is that of its three transmissions. -/

namespace Sys2Proof.Proofs

open Sys2Proof Sys2Proof.Machine

/-! ### Traces as functions of the cycle -/

/-- The trace of `n` cycles with the pins `f j` in cycle `j`. -/
def traceOf (n : Nat) (f : Nat → PinLevel × PinLevel) : List (PinLevel × PinLevel) := (List.range n).map f

theorem traceOf_length (n : Nat) (f : Nat → PinLevel × PinLevel) : (traceOf n f).length = n := by simp [traceOf]

theorem traceOf_get {n j : Nat} (h : j < n) (f : Nat → PinLevel × PinLevel) : (traceOf n f)[j]? = some (f j) := by simp [traceOf, h]

theorem traceOf_congr {n : Nat} {f g : Nat → PinLevel × PinLevel} (h : ∀ j < n, f j = g j) : traceOf n f = traceOf n g :=
  List.map_congr_left fun j hj => h j (List.mem_range.mp hj)

/-- One trace after another. -/
theorem traceOf_append (m n : Nat) (f g : Nat → PinLevel × PinLevel) :
    traceOf m f ++ traceOf n g = traceOf (m + n) fun j => if j < m then f j else g (j - m) := by
  have hfirst : traceOf m f = traceOf m fun j => if j < m then f j else g (j - m) := traceOf_congr fun j hj => (if_pos hj).symm
  rw [hfirst, traceOf, traceOf, traceOf, List.range_add, List.map_append, List.map_map]
  congr 1
  exact List.map_congr_left fun j _ => by simp

/-- The trace of cycles that complete shows the pins as each number of cycles leaves them. -/
theorem cycleTrace_eq_traceOf {n : Nat} {s : State} {u : Nat → State} (h : ∀ j, advance j s = .ok (u j)) :
    cycleTrace n s = traceOf n fun j => pins (u j) := by
  have hlen : (cycleTrace n s).length = n := cycleTrace_length (h n)
  apply List.ext_getElem?
  intro j
  rcases Nat.lt_or_ge j n with hj | hj
  · rw [cycleTrace_get (h n) hj (h j), traceOf_get hj]
  · rw [List.getElem?_eq_none (hlen.trans_le hj), List.getElem?_eq_none ((traceOf_length n _).trans_le hj)]

/-! ### The trace of a run, operation by operation -/

/-- The trace of `m + n` operations is that of the last `n` after that of the first `m`. -/
theorem runTrace_add {m : Nat} {s s' : State} (h : Host.Core.run Sys2Proof.core m s = .next s') (n : Nat) :
    runTrace (m + n) s = runTrace m s ++ runTrace n s' := by
  induction m generalizing s with
  | zero => cases h; rw [Nat.zero_add]; rfl
  | succ m ih =>
    obtain ⟨u, hstep, hrest⟩ := run_next h
    obtain ⟨-, hfault, i, hfetch, -⟩ := step_next hstep
    rw [Nat.succ_add, runTrace_step _ hfault hfetch hstep, runTrace_step _ hfault hfetch hstep, ih hrest, List.append_assoc]

/-- With OVH = 0 no operation but DLY takes time (R225). -/
theorem opTrace_eq_nil {i : Instr} {s : State} (hdly : ∀ imm, i ≠ .dly imm) (hovh : s.cfg.ovh = 0) : opTrace i s = [] := by
  have hcycles : instrCycles i s.cfg = 0 := by
    cases i with
    | dly imm => exact absurd rfl (hdly imm)
    | _ => exact hovh
  unfold opTrace
  rw [hcycles]
  split <;> rfl

theorem opTrace_dly {imm : Operand} (h : imm ≠ 0) (s : State) :
    opTrace (.dly imm) s = cycleTrace (imm.toNat * s.cfg.k) (s.setTimer imm.toNat 0) := by
  have hwrites : instrWrites (.dly imm) s = .ok (s.setTimer imm.toNat 0) := dlyWrites_of_ne h s
  unfold opTrace
  rw [hwrites]
  rfl

/-! ### The trace of a transmission -/

/-- The level of the IR pin in cycle `j` of a transmission with an on-window of `n` cycles from level `v` (R125, R147). -/
def txLevel (n p : Nat) (v : Bit) (j : Nat) : Bit := if j < n then (if j / (p + 1) % 2 = 0 then v else !v) else inactive

section
variable {s : State} {on off : Operand} {p : Nat} {v : Bit}

/-- The operation at word `j` of TX and its trace. -/
theorem TxReady.runTrace_next (h : TxReady s on off p v) {u u' : State} {j : Nat} (hj : j < 5) (hcfg : u.cfg = s.cfg)
    (hfault : u.fault = none) (hpc : u.pc = s.pc + j) (hexec : exec ((txExpansion on off)[j]'hj) u = .next u') (n : Nat) :
    runTrace (n + 1) u = opTrace ((txExpansion on off)[j]'hj) u ++ runTrace n u' := by
  have hrom : RomHolds u s.pc (txExpansion on off) := by
    unfold RomHolds
    rw [hcfg]
    exact h.rom
  have hdecode := decode_encode_txExpansion on off _ (List.getElem_mem hj)
  exact runTrace_step n hfault (fetchDecode_of_romHolds hrom hpc hj hdecode) (h.step_next hj hcfg hfault hpc hexec)

/-- The pins during the DLY of the on-window: the square wave from the writes of CGEN on. -/
theorem TxReady.opTrace_on (h : TxReady s on off p v) (hovh : s.cfg.ovh = 0) :
    opTrace (.dly on) ((carrierOn s p v s.cfg.ovh).setPc (s.pc + 1)) =
      traceOf (on.toNat * s.cfg.k) fun j =>
        (pinLevel s.dirLed s.vled, pinLevel s.dirIr (some (if j / (p + 1) % 2 = 0 then v else !v))) := by
  rw [opTrace_dly h.onTime]
  refine (cycleTrace_eq_traceOf (u := fun j => carrierOn ((s.setPc (s.pc + 1)).setTimer on.toNat 0) p v (s.cfg.ovh + j)) fun j => ?_).trans ?_
  · exact advance_carrierOn (s := (s.setPc (s.pc + 1)).setTimer on.toNat 0) h.period h.periodFits h.level s.cfg.ovh j
  · rw [hovh]
    exact traceOf_congr fun j _ => by rw [Nat.zero_add]; rfl

/-- The pins during a DLY with the generator stopped. -/
theorem opTrace_dly_of_stopped {u : State} (hen : u.en = false) {imm : Operand} (h : imm ≠ 0) :
    opTrace (.dly imm) u = traceOf (imm.toNat * u.cfg.k) fun _ => pins u := by
  rw [opTrace_dly h]
  exact cycleTrace_eq_traceOf (u := fun j => (u.setTimer imm.toNat 0).addTime j) fun j =>
    advance_stopped (s := u.setTimer imm.toNat 0) hen j

/-- The state before CGSTOP: the on-window has lasted its `n_en` cycles. -/
def beforeCgstop (s : State) (on : Operand) (p : Nat) (v : Bit) : State :=
  { carrierOn s p v (enabledCycles s.cfg on) with dlyUs := 0, dlySub := 0, pc := s.pc + 2 }

/-- The state before the second DLY: IROFF has forced the pin. -/
def beforeOff (s : State) (on : Operand) (p : Nat) (v : Bit) : State :=
  { beforeIroff s on p v with ir := some true, t := (beforeIroff s on p v).t + s.cfg.ovh, pc := s.pc + 4 }

/-- The trace of the five words of TX with OVH = 0: those of its two DLYs. -/
theorem TxReady.runTrace_dlys (h : TxReady s on off p v) (hovh : s.cfg.ovh = 0) :
    runTrace 5 s = opTrace (.dly on) ((carrierOn s p v s.cfg.ovh).setPc (s.pc + 1)) ++ opTrace (.dly off) (beforeOff s on p v) := by
  have hcgen : runTrace 5 s = opTrace .cgen s ++ runTrace 4 ((carrierOn s p v s.cfg.ovh).setPc (s.pc + 1)) :=
    h.runTrace_next (j := 0) (by decide) rfl h.noFault rfl (exec_cgen_carrierOn h.period h.periodFits h.level) 4
  have hon : runTrace 4 ((carrierOn s p v s.cfg.ovh).setPc (s.pc + 1)) =
      opTrace (.dly on) ((carrierOn s p v s.cfg.ovh).setPc (s.pc + 1)) ++ runTrace 3 (beforeCgstop s on p v) :=
    h.runTrace_next (u := (carrierOn s p v s.cfg.ovh).setPc (s.pc + 1)) (j := 1) (by decide) rfl h.noFault rfl
      (exec_dly_carrierOn (s := s.setPc (s.pc + 1)) h.period h.periodFits h.level h.onTime s.cfg.ovh) 3
  have hcgstop : runTrace 3 (beforeCgstop s on p v) = opTrace .cgstop (beforeCgstop s on p v) ++ runTrace 2 (beforeIroff s on p v) :=
    h.runTrace_next (u := beforeCgstop s on p v) (j := 2) (by decide) rfl h.noFault rfl (cgstopLeavesThePinLevel _) 2
  have hiroff : runTrace 2 (beforeIroff s on p v) = opTrace .iroff (beforeIroff s on p v) ++ runTrace 1 (beforeOff s on p v) :=
    h.runTrace_next (u := beforeIroff s on p v) (j := 3) (by decide) rfl h.noFault rfl (exec_iroff_of_stopped rfl) 1
  have hoff : runTrace 1 (beforeOff s on p v) = opTrace (.dly off) (beforeOff s on p v) ++ [] :=
    h.runTrace_next (u := beforeOff s on p v) (j := 4) (by decide) rfl h.noFault rfl (exec_dly_of_stopped rfl h.offTime) 0
  rw [hcgen, hon, hcgstop, hiroff, hoff, opTrace_eq_nil (i := .cgen) (s := s) nofun hovh,
    opTrace_eq_nil (i := .cgstop) (s := beforeCgstop s on p v) nofun hovh,
    opTrace_eq_nil (i := .iroff) (s := beforeIroff s on p v) nofun hovh]
  simp only [List.nil_append, List.append_nil]

/-- The trace of a transmission: the on-window, then the off-window. -/
theorem TxReady.runTrace_tx (h : TxReady s on off p v) (hovh : s.cfg.ovh = 0) :
    runTrace 5 s = traceOf ((on.toNat + off.toNat) * s.cfg.k) fun j =>
      (pinLevel s.dirLed s.vled, pinLevel s.dirIr (some (txLevel (on.toNat * s.cfg.k) p v j))) := by
  rw [h.runTrace_dlys hovh, h.opTrace_on hovh, opTrace_dly_of_stopped rfl h.offTime, traceOf_append, Nat.add_mul]
  refine traceOf_congr fun j _ => ?_
  unfold txLevel
  split <;> rfl

end

/-! ### The trace of an iteration (R174, R176) -/

/-- The pins in cycle `j` of a transmission of the beacon under Cfg0 with the LED latch at `b`: an on-window of 4976 cycles, 105 a half-period. -/
def txPins (b : Bit) (j : Nat) : PinLevel × PinLevel := (.driven b, .driven (txLevel 4976 104 inactive j))

/-- A state of the beacon under Cfg0 at word `w` with the LED latch at `b`. -/
structure BeaconAt (w : Nat) (b : Bit) (s : State) : Prop where
  inv : BeaconInv s
  cfg : s.cfg = cfg0
  pc : s.pc = w
  led : s.vled = some b

/-- The cycles of a transmission, and the state from which the trace goes on. -/
theorem BeaconAt.runTrace_tx {s : State} {w : Nat} {b : Bit} (h : BeaconAt w b s) {off : Operand} (hw : (w, off) ∈ txWords) {n : Nat}
    (hn : (622 + off.toNat) * 8 = n) (m : Nat) :
    ∃ s', BeaconAt (w + 5) b s' ∧ runTrace (5 + m) s = traceOf n (txPins b) ++ runTrace m s' := by
  have hword : ∀ x ∈ txWords, 1 ≤ x.1 := by decide
  have hstart : 1 ≤ s.pc := h.pc ▸ hword _ hw
  obtain ⟨hdirLed, hdirIr⟩ := h.inv.dirs hstart
  obtain ⟨hrun, hinv, hpc⟩ := run_tx_of_inv h.inv h.pc hw
  refine ⟨_, ⟨hinv, (run_cfg hrun).trans h.cfg, hpc, h.led⟩, ?_⟩
  rw [runTrace_add hrun, (txReady_of_inv h.inv (h.pc ▸ hw)).runTrace_tx (by rw [h.cfg]; rfl), hdirLed, hdirIr, h.led, h.cfg,
    perval_cfg0, ← hn]
  rfl

/-- The words before and after the transmissions. -/
theorem beaconInstrs_ne_dly : ∀ (pc : Nat) (h : pc < 23), pc ∈ [4, 5, 21, 22] → ∀ imm, beaconInstrs[pc]'h ≠ .dly imm := by
  intro pc h hmem imm
  simp only [List.mem_cons, List.not_mem_nil, or_false] at hmem
  rcases hmem with rfl | rfl | rfl | rfl <;> exact nofun

/-- A step at one of them has no cycle with OVH = 0. -/
theorem runTrace_idle_step {s s' : State} (h : BeaconInv s) (hovh : s.cfg.ovh = 0) (hpc : s.pc ∈ [4, 5, 21, 22])
    (hstep : step s = .next s') (n : Nat) : runTrace (n + 1) s = runTrace n s' := by
  have hdly : ∀ imm, beaconInstr h ≠ .dly imm := beaconInstrs_ne_dly s.pc (Nat.lt_succ_of_le h.pc) hpc
  rw [runTrace_step n h.noFault (fetchDecode_of_inv h) hstep, opTrace_eq_nil hdly hovh, List.nil_append]

/-- INCB and LEDA, or LEDD and LOOP, have no cycle with OVH = 0. -/
theorem runTrace_idle {s : State} (h : BeaconInv s) (hovh : s.cfg.ovh = 0) (hpc : s.pc = 4 ∨ s.pc = 21) : runTrace 2 s = [] := by
  obtain ⟨u, hstep⟩ := step_completes_of_inv h
  have hinv : BeaconInv u := step_keeps_inv h hstep
  obtain ⟨u', hstep'⟩ := step_completes_of_inv hinv
  have hnext : u.pc = s.pc + 1 :=
    (completes_of_inv h hstep).pc.trans (nextPc_beacon_of_lt s.pc (Nat.lt_succ_of_le h.pc) (by omega))
  rw [runTrace_idle_step h hovh (by rcases hpc with hpc | hpc <;> rw [hpc] <;> decide) hstep,
    runTrace_idle_step hinv ((step_cfg hstep).symm ▸ hovh) (by rcases hpc with hpc | hpc <;> rw [hnext, hpc] <;> decide) hstep']
  rfl

/-- INCB and LEDA, and the state from which the transmissions begin: the LED is lit from the count 2000 on (R176). -/
theorem beaconAt_iterTx {s : State} (h : BeaconInv s) (hcfg : s.cfg = cfg0) (hpc : s.pc = 4) :
    BeaconAt 6 (decide (s.blink + 1 < 2000)) (iterTx s) := by
  have hrun := run_iterTx h hpc
  have hinv : BeaconInv (iterTx s) := run_keeps_inv h hrun
  have hpc' : (iterTx s).pc = 6 := by rw [iterTx_pc, hpc]
  have hle : s.blink ≤ 2004 := blink_le_of_head h hpc
  have hwidth := h.blinkFits
  have hblink : (iterTx s).blink = s.blink + 1 := Nat.mod_eq_of_lt (by omega)
  have hled : (iterTx s).vled = some (decide ((iterTx s).blink < litFrom (iterTx s).pc)) := (sequencerAt_of_inv hinv).led (by omega)
  rw [hblink, hpc'] at hled
  exact ⟨hinv, (run_cfg hrun).trans hcfg, hpc', hled⟩

/-- The cycles of an iteration are those of its three transmissions. -/
theorem runTrace_iteration {s : State} (h : BeaconInv s) (hcfg : s.cfg = cfg0) (hpc : s.pc = 4) :
    runTrace 19 s = traceOf 14536 (txPins (decide (s.blink + 1 < 2000))) ++
      (traceOf 14536 (txPins (decide (s.blink + 1 < 2000))) ++ traceOf 52928 (txPins (decide (s.blink + 1 < 2000)))) := by
  have hovh {u : State} (hu : u.cfg = cfg0) : u.cfg.ovh = 0 := by rw [hu]; rfl
  obtain ⟨s₁, h₁, htrace₁⟩ := (beaconAt_iterTx h hcfg hpc).runTrace_tx (off := 1195) (n := 14536) (by decide) rfl 12
  obtain ⟨s₂, h₂, htrace₂⟩ := h₁.runTrace_tx (off := 1195) (n := 14536) (by decide) rfl 7
  obtain ⟨s₃, h₃, htrace₃⟩ := h₂.runTrace_tx (off := 5994) (n := 52928) (by decide) rfl 2
  rw [runTrace_add (m := 2) (run_iterTx h hpc) 17, runTrace_idle h (hovh hcfg) (.inl hpc), htrace₁, htrace₂, htrace₃,
    runTrace_idle h₃.inv (hovh h₃.cfg) (.inr h₃.pc), List.nil_append, List.append_nil]

/-- The level in the `j`-th cycle of a transmission of the beacon: dark from the start, and forced off after the on-window (R125). -/
theorem txLevel_beacon (j : Nat) : txLevel 4976 104 inactive j = if j < 4976 then decide (j / 105 % 2 = 0) else inactive := by
  unfold txLevel
  rcases Nat.mod_two_eq_zero_or_one (j / 105) with h | h <;> simp [h]

/-- The level of the IR pin over an iteration, transmission by transmission (R174). -/
theorem beaconLevel_eq (j : Nat) :
    beaconLevel j = if j < 14536 then txLevel 4976 104 inactive j
      else if j - 14536 < 14536 then txLevel 4976 104 inactive (j - 14536) else txLevel 4976 104 inactive (j - 14536 - 14536) := by
  have hsub : j - 14536 - 14536 = j - 29072 := Nat.sub_sub ..
  rw [txLevel_beacon, txLevel_beacon, txLevel_beacon, hsub]
  unfold beaconLevel
  rcases Nat.lt_or_ge j 14536 with hfirst | hfirst
  · have hsecond : ¬ (14536 ≤ j ∧ j < 19512) := by omega
    have hthird : ¬ (29072 ≤ j ∧ j < 34048) := by omega
    simp only [hfirst, hsecond, hthird, if_true, if_false]
  have hfirst' : ¬ j < 14536 ∧ ¬ j < 4976 := by omega
  rcases Nat.lt_or_ge (j - 14536) 14536 with hsecond | hsecond
  · have hwindow : 14536 ≤ j ∧ j < 19512 ↔ j - 14536 < 4976 := by omega
    have hthird : ¬ (29072 ≤ j ∧ j < 34048) := by omega
    simp only [hfirst', hsecond, hwindow, hthird, if_true, if_false]
  · have hsecond' : ¬ j - 14536 < 14536 ∧ ¬ (14536 ≤ j ∧ j < 19512) := by omega
    have hwindow : 29072 ≤ j ∧ j < 34048 ↔ j - 29072 < 4976 := by omega
    simp only [hfirst', hsecond', hwindow, if_false]

/-- Settles O51: the three transmissions, one after another, show `beaconLevel`. -/
theorem beaconPinPattern : Obligations.BeaconPinPattern := by
  intro s h hcfg hpc
  have htrace : runTrace 19 s = traceOf 82000 fun j => (.driven (decide (s.blink + 1 < 2000)), .driven (beaconLevel j)) := by
    rw [runTrace_iteration h hcfg hpc, traceOf_append, traceOf_append]
    refine traceOf_congr fun j _ => ?_
    rw [beaconLevel_eq]
    unfold txPins
    split
    · rfl
    · split <;> rfl
  rw [htrace]
  exact ⟨traceOf_length _ _, fun j hj => traceOf_get hj _⟩

end Sys2Proof.Proofs
